-- ==== Sys2Proof/Word.lean ====
section
/-!
DEFINITION. The word type of PPMDEC and the fixed-width conversions of spec/00_scope.md R12.
Commands, events and status registers are 32-bit words (spec/20_memory.md R53).
-/
namespace Sys2Proof

/-- A command word, an event word or a status register (R53). -/
abbrev Word := BitVec 32

end Sys2Proof
end

