-- ==== Sys2Proof/Syntax.lean ====
section
/-!
DEFINITION. The commands of PPMDEC, one constructor per row of spec/opcode_table.json.
-/
namespace Sys2Proof

/-- PPMDEC accepts exactly two commands (R2, R70). -/
inductive Instr where
  /-- `SAMPLE s`: feed one sample; `s` is the integer `sext_16(cmd[15:0])` (R71, R120). -/
  | sample (s : Int)
  /-- `END_BLOCK`: close the current block; it has no operand (R72, R126). -/
  | endBlock
deriving DecidableEq, Repr

end Sys2Proof
end

