-- ==== Sys2Proof/WellFormed.lean ====
section
/-!
DEFINITION. Which commands have an encoding: a sample lies in -32768..32767 (spec/30_encoding.md R71, R82).
-/
namespace Sys2Proof

/-- The values a 16-bit two's-complement field holds (R12, R71). -/
abbrev sampleInRange (s : Int) : Prop := -32768 ≤ s ∧ s ≤ 32767

/-- A command is well formed when its operand fits its field; END_BLOCK has none. -/
abbrev WellFormed : Instr → Prop
  | .sample s => sampleInRange s
  | .endBlock => True

/-- `WellFormed` as a check that computes. -/
def wellFormed : Instr → Bool
  | .sample s => decide (sampleInRange s)
  | .endBlock => true

end Sys2Proof
end

