-- ==== Sys2Proof/Decode.lean ====
section
/-!
DEFINITION. Decode (spec/30_encoding.md R70 to R75) and the encoder written from the same formats.
-/
namespace Sys2Proof

/-- `OP = cmd[31:30]` (R70). -/
def opField (w : Word) : BitVec 2 := w.extractLsb' 30 2

/-- `cmd[29:16]`, which a SAMPLE word must have zero (R71). -/
def reservedField (w : Word) : BitVec 14 := w.extractLsb' 16 14

/-- `cmd[29:0]`, which an END_BLOCK word must have zero (R72). -/
def payloadField (w : Word) : BitVec 30 := w.extractLsb' 0 30

/-- `cmd[15:0]`, the sample of a SAMPLE word (R71). -/
def sampleField (w : Word) : BitVec 16 := w.extractLsb' 0 16

/-- `sext_16` (R12). -/
def sext16 (v : BitVec 16) : Int := v.toInt

/-- `enc_16` (R12): the 16-bit two's-complement pattern. -/
def enc16 (x : Int) : BitVec 16 := BitVec.ofInt 16 x

/-- Why a word is illegal: the four cases of R73, the two reserved opcodes under one name. -/
inductive IllegalReason where
  /-- `OP = 10` or `OP = 11` -/
  | reservedOp
  /-- `OP = 00` with a bit of `cmd[29:16]` set -/
  | sampleReservedBits
  /-- `OP = 01` with a bit of `cmd[29:0]` set -/
  | endBlockPayload
deriving DecidableEq, Repr

/-- The result of Decode (R74). -/
inductive Decoded where
  | command (i : Instr)
  | illegal (why : IllegalReason)
deriving DecidableEq, Repr

/-- Which of R73's cases an illegal word falls under. -/
def illegalReason (w : Word) : IllegalReason :=
  if opField w = 0b00#2 then .sampleReservedBits
  else if opField w = 0b01#2 then .endBlockPayload
  else .reservedOp

/-- Decode (R74): total on 32-bit words; reserved bits are checked, not ignored. -/
def decode (w : Word) : Decoded :=
  if opField w = 0b00#2 ∧ reservedField w = 0 then .command (.sample (sext16 (sampleField w)))
  else if opField w = 0b01#2 ∧ payloadField w = 0 then .command .endBlock
  else .illegal (illegalReason w)

/-- The word of a command (R71, R72). -/
def encode : Instr → Word
  | .sample s => 0b00#2 ++ 0#14 ++ enc16 s
  | .endBlock => 0b01#2 ++ 0#30

/-- The `match` column of a command's row of spec/opcode_table.json. -/
def tableMatch : Instr → Word
  | .sample _ => 0x00000000
  | .endBlock => 0x40000000

/-- The `mask` column of a command's row of spec/opcode_table.json. -/
def tableMask : Instr → Word
  | .sample _ => 0xFFFF0000
  | .endBlock => 0xFFFFFFFF

/-- The command an accepted decoding gives. -/
def commandOf : Decoded → Option Instr
  | .command i => some i
  | .illegal _ => none

/-- The decoder on a word given as a number. A command is one whole 32-bit word, moved without byte
order (R51, R86), so bit 0 of the number is bit 0 of `cmd`. -/
def decodeTableWord (nbits w : Nat) : Option Instr :=
  commandOf (decode (BitVec.ofNat 32 (w % 2 ^ nbits)))

end Sys2Proof
end

