-- ==== Sys2Proof/Config.lean ====
section
/-!
DEFINITION. The configuration record of spec/00_scope.md R8, its constraints (R9) and this hardware's values.
RATE and DEVICE_NAME are OPEN in the spec: opaque constants without a body (log 2, log 3).
-/
namespace Sys2Proof

/-- `TIE_MODE` (R8, R147): how the value map settles an exact half. -/
inductive TieMode where
  /-- an exact half goes to the even neighbour; this hardware's mode -/
  | halfEven
  /-- an exact half goes away from zero -/
  | halfAway
  /-- the whole map is evaluated in IEEE-754 binary64 (log 9) -/
  | referenceB64
deriving DecidableEq, Repr

/-- The parameters a block is instantiated with (R8). `NCH` is the number of entries of `axisMap` (log 10). -/
structure Params where
  /-- `RATE`, samples a second -/
  rate : Nat
  /-- `THRESHOLD`: a sample is high when it is greater -/
  threshold : Int
  /-- `AXIS_MAP`: entry `k` is the axis of channel `k` (R28) -/
  axisMap : List (BitVec 4)
  /-- `TIE_MODE` -/
  tieMode : TieMode
  /-- `BLOCK_MAX`: most samples in one block -/
  blockMax : Nat
  /-- `DEVICE_NAME`: the host's string; no event carries it and no rule reads it (R79) -/
  deviceName : String
  /-- `AXIS_LO`: low end of the range DECLARE carries -/
  axisLo : BitVec 8
  /-- `AXIS_HI`: high end of the range DECLARE carries -/
  axisHi : BitVec 8
  /-- `NBUTTON`: digital buttons declared, never written (D18) -/
  nbutton : BitVec 8
deriving DecidableEq, Repr

/-- The constraints of R9. That each axis lies in 0..15 is its type. -/
abbrev Params.Valid (p : Params) : Prop :=
  (1 ≤ p.rate ∧ p.rate ≤ 2 ^ 24) ∧ (-32768 ≤ p.threshold ∧ p.threshold ≤ 32767) ∧
  (1 ≤ p.axisMap.length ∧ p.axisMap.length ≤ 16) ∧ (1 ≤ p.blockMax ∧ p.blockMax ≤ 2 ^ 24)

/-- A configuration: parameters that meet R9, so that one that breaks R9 cannot be built. -/
structure Config extends Params where
  valid : toParams.Valid
deriving DecidableEq, Repr

/-- Instantiation: a configuration that breaks R9 describes no PPMDEC and is refused. -/
def Params.instantiate (p : Params) : Option Config :=
  if h : p.Valid then some { p with valid := h } else none

/-- `RATE - 1`: the spec leaves RATE open within 1..2^24 (R8, R9; log 2). -/
opaque Config.openRate : Fin 16777216

/-- `DEVICE_NAME`: the spec leaves it open (R8; log 3). -/
opaque Config.openDeviceName : String

/-- The values R8 gives for this hardware. -/
def Params.hardware : Params where
  rate := Config.openRate.val + 1
  threshold := 15000
  axisMap := [0, 1, 2, 3]
  tieMode := .halfEven
  blockMax := 65535
  deviceName := Config.openDeviceName
  axisLo := 0
  axisHi := 255
  nbutton := 1

theorem Params.hardware_valid : Params.hardware.Valid :=
  ⟨⟨Nat.le_add_left 1 _, Config.openRate.isLt⟩, by decide, by decide, by decide⟩

/-- The configuration of this hardware (R8). -/
def Config.hardware : Config := { Params.hardware with valid := Params.hardware_valid }

end Sys2Proof
end

