-- ==== Sys2Proof/Machine/State.lean ====
section
/-!
DEFINITION. The state record of spec/10_state.md R20, the ports of R32 and the outputs, with their reset values (R41, R200).
-/
namespace Sys2Proof.Machine

/-- An event PPMDEC emits: exactly three kinds (R80). `value` is `VALUE`, 16-bit two's complement. -/
inductive Event where
  | write (axis : BitVec 4) (value : BitVec 16)
  | sync
  | declare
deriving DecidableEq, Repr

/-- `ERR_CAUSE` (R181). Code 3 is reserved and never raised: a cause type has no such value (93 I13). -/
inductive ErrCause where
  | noError
  | illegalCmd
  | blockOverflow
deriving DecidableEq, Repr

/-- The transition between two sample levels (R101). -/
inductive Edge where
  | noEdge
  | rising
  | falling
deriving DecidableEq, Repr

/-- What the host drives on the input ports during one clock cycle (R32). -/
structure PortCycle where
  /-- synchronous reset, active high -/
  rst : Bool
  /-- a command word is presented -/
  cmdValid : Bool
  /-- the command word; it counts only while `cmdValid` holds -/
  cmd : Word
  /-- the status register whose contents the status port shows -/
  statAddr : BitVec 4
deriving DecidableEq, Repr

/-- What one clock cycle makes PPMDEC do (R200, R217, R219). -/
inductive Action where
  /-- nothing is presented: the state is held -/
  | idle
  /-- `rst` is high: the reset step, whatever command is presented -/
  | reset
  /-- the presented word decodes as ILLEGAL -/
  | illegal
  /-- the presented word decodes as a command -/
  | run (i : Instr)
deriving DecidableEq, Repr

/-- No step of PPMDEC stops with a fault: an error sets `ERR` and the block goes on (R182), and PPMDEC
itself never halts (R220). So this type has no constructor; that is safe, since every error is visible
in `err` and `errCause`, which a claim about a run reads (R184). -/
inductive Fault where
deriving DecidableEq, Repr

/-- Why a step has no meaning. -/
inductive Refusal where
  /-- Raised by an arm of `exec` whose instruction has no meaning yet; no arm raises it. Safe. -/
  | notModelled (mnemonic : String)
deriving DecidableEq, Repr

/-- PPMDEC. `level` to `errCause` are the record of R20, in its order; R44 allows unbounded integers for
the numeric ones (log 6). `cfg` is the instance's configuration, which no step writes (R8; log 1).
`inputs`, `evtOut` and `events` are the ports and the observation, not state of R20 (log 4, log 5). -/
structure State where
  /-- `LEVEL`: level of the last sample processed, true = high (R21) -/
  level : Bool
  /-- `FE_VALID`: a falling edge is recorded (R22) -/
  feValid : Bool
  /-- `FE_OFF`: its index relative to the current block's start (R22) -/
  feOff : Int
  /-- `SYNCED` (R23) -/
  synced : Bool
  /-- `CH`: the channel index of Synced(k) (R23) -/
  ch : Nat
  /-- `BLK_IDX`: SAMPLE commands accepted in the current block (R24) -/
  blkIdx : Nat
  /-- `SYNC_REQ`: a WRITE was emitted in the current block (R25) -/
  syncReq : Bool
  /-- `ERR`: sticky error flag (R26) -/
  err : Bool
  /-- `ERR_CAUSE`: cause of the first error (R26) -/
  errCause : ErrCause
  /-- the configuration record (R8) -/
  cfg : Config
  /-- the cycles the host presents from now on, the next one first; afterwards it presents nothing -/
  inputs : List PortCycle
  /-- the event port: the event the last step emitted, if any (R32, R217) -/
  evtOut : Option Event
  /-- every event emitted so far, oldest first (R14, R220) -/
  events : List Event
deriving DecidableEq, Repr

/-- The machine of configuration `c` right after `Reset()`: the values of R41, DECLARE emitted (R200, R202),
nothing presented yet. -/
def State.resetFor (c : Config) : State where
  level := false
  feValid := false
  feOff := 0
  synced := false
  ch := 0
  blkIdx := 0
  syncReq := false
  err := false
  errCause := .noError
  cfg := c
  inputs := []
  evtOut := some .declare
  events := [.declare]

/-- This hardware right after reset (R41, R203). -/
def State.reset : State := State.resetFor Config.hardware

end Sys2Proof.Machine
end

