-- ==== Sys2Proof/Machine/Operands.lean ====
section
/-!
DEFINITION. Operand and parameter access: the derived parameters (spec/00_scope.md R8, spec/42_frame_decoder.md R145),
AXIS_MAP, and the fields of an event word (spec/30_encoding.md R76, R81). SAMPLE's operand is assembled in Decode.lean.
-/
namespace Sys2Proof.Machine

/-- `NCH = |ChannelMapping|` (R8). -/
def nch (c : Config) : Nat := c.axisMap.length

/-- `MARKER_WIDTH = ceil(RATE/200) = (RATE + 199) div 200` (R145). -/
def markerWidth (c : Config) : Nat := (c.rate + 199) / 200

/-- `LOSS_WINDOW = RATE` (R8). -/
def lossWindow (c : Config) : Nat := c.rate

/-- `AXIS_MAP[k]`; 0 where `k >= NCH`, as the status registers show it (R33). -/
def axisAt (c : Config) (k : Nat) : BitVec 4 := c.axisMap.getD k 0

/-- `KIND = evt[31:30]` (R76). -/
def kindField (w : Word) : BitVec 2 := w.extractLsb' 30 2

/-- The axis a reader recovers from an event word: `zext_4(evt[27:24])` (R81). -/
def axisField (w : Word) : BitVec 4 := w.extractLsb' 24 4

/-- The `VALUE` field `evt[15:0]` of an event word (R77). -/
def valueField (w : Word) : BitVec 16 := w.extractLsb' 0 16

/-- The value a reader recovers from an event word: `sext_16(evt[15:0])` (R81). -/
def valueOfWord (w : Word) : Int := sext16 (valueField w)

end Sys2Proof.Machine
end

