-- ==== Sys2Proof/Machine/Ops.lean ====
section
/-!
DEFINITION. The shared operations: emitting an event, taking an error, reset, the start of a cycle, and what the
host's presented cycle asks for. There is no memory, no trap and no trap return (spec/20_memory.md R50,
spec/60_exceptions.md R187).
-/
namespace Sys2Proof.Machine

/-- `emit E` (R14): the event goes to the end of the output sequence and onto the event port (R217). -/
def emit (e : Event) (s : State) : State :=
  { s with evtOut := some e, events := s.events ++ [e] }

/-- `ERR_CAUSE` after an error: the first cause is kept (R182, R183). -/
def keepFirstCause (old new : ErrCause) : ErrCause :=
  if old = .noError then new else old

/-- `raise Error(cause)` (R182): the error status, and nothing else. -/
def raiseError (cause : ErrCause) (s : State) : State :=
  { s with err := true, errCause := keepFirstCause s.errCause cause }

/-- `Reset()` (R200), from any state (R201): the values of R41, then DECLARE. -/
def performReset (s : State) : State :=
  emit .declare
    { s with
      level := false, feValid := false, feOff := 0, synced := false, ch := 0,
      blkIdx := 0, syncReq := false, err := false, errCause := .noError }

/-- The clock edge: the presented cycle is taken, and the event of the step before leaves the port (R217). -/
def beginCycle (s : State) : State :=
  { s with inputs := s.inputs.tail, evtOut := none }

/-- What a presented word asks for: Decode comes first (R183). -/
def actionOfWord (w : Word) : Action :=
  match decode w with
  | .command i => .run i
  | .illegal _ => .illegal

/-- What one cycle asks for: `rst` wins over a command presented with it (R200), and a word counts only
while `cmd_valid` is high (R217). -/
def actionOfCycle (c : PortCycle) : Action :=
  if c.rst then .reset
  else if c.cmdValid then actionOfWord c.cmd
  else .idle

/-- What the next cycle asks for; where the host presents none, it is idle (R185, R193, R219). -/
def nextAction (s : State) : Action :=
  match s.inputs with
  | [] => .idle
  | c :: _ => actionOfCycle c

/-- A cycle that presents the command word `w`. -/
def commandCycle (w : Word) : PortCycle :=
  { rst := false, cmdValid := true, cmd := w, statAddr := 0 }

/-- `s` with the words `ws` presented next, one a cycle, before whatever the host presents after. -/
def presentWords (ws : List Word) (s : State) : State :=
  { s with inputs := ws.map commandCycle ++ s.inputs }

end Sys2Proof.Machine
end

