-- ==== Sys2Proof/Machine/EndBlock.lean ====
section
/-!
DEFINITION. END_BLOCK (spec/41_pulse_timer.md R126 to R130) and the sync-loss guard (spec/43_sync_loss_guard.md R160 to R163).
-/
namespace Sys2Proof.Machine

/-- The batched SYNC (R127): emitted when `SYNC_REQ` is set; the flag is then cleared. -/
def flushSync (s : State) : State :=
  { (if s.syncReq then emit .sync s else s) with syncReq := false }

/-- Offset normalisation by the block length `BLK_IDX` (R128). -/
def normaliseOffset (s : State) : State :=
  if s.feValid then { s with feOff := s.feOff - s.blkIdx } else s

/-- Whether the guard fires: `FE_VALID = 1` and `FE_OFF < -RATE`, strictly (R160). -/
def guardFires (s : State) : Bool :=
  s.feValid && decide (s.feOff < -(lossWindow s.cfg : Int))

/-- `SyncLossGuard()` (R160). -/
def syncLossGuard (s : State) : State :=
  if guardFires s then { s with synced := false, ch := 0, feValid := false, feOff := 0 } else s

/-- The block's end: the next sample has index 0 (R126). -/
def clearIndex (s : State) : State := { s with blkIdx := 0 }

/-- The block's close, in the order R129 fixes. -/
def closeBlock (s : State) : State :=
  clearIndex (syncLossGuard (normaliseOffset (flushSync s)))

/-- `END_BLOCK` (R126). -/
def execEndBlock (s : State) : Host.Outcome State Fault Refusal :=
  .next (closeBlock s)

end Sys2Proof.Machine
end

