-- ==== Sys2Proof/Machine/Flags.lean ====
section
/-!
DEFINITION. The flag computations: the level of a sample and the transition between two levels
(spec/40_edge_detector.md R100, R101). There is no condition-code register (spec/10_state.md R29).
-/
namespace Sys2Proof.Machine

/-- `Level(s)` (R100): high when strictly greater than `THRESHOLD`, as signed integers. -/
def sampleLevel (c : Config) (x : Int) : Bool := decide (c.threshold < x)

/-- `Transition(prev, cur)` (R101). -/
def transition (prev cur : Bool) : Edge :=
  match prev, cur with
  | false, true => .rising
  | true, false => .falling
  | false, false => .noEdge
  | true, true => .noEdge

end Sys2Proof.Machine
end

