-- ==== Sys2Proof/Machine/Binary64.lean ====
section
/-!
DEFINITION. Rounding an exact quotient to the nearest integer (spec/42_frame_decoder.md R147) and the IEEE-754 binary64
operations that `TIE_MODE = reference_b64` uses, in exact integer arithmetic (PRESUMED, log 9).
-/
namespace Sys2Proof.Machine

/-- `RoundNearest(n, d)` for `d > 0` (R147). Under `reference_b64` the map rounds half to even. -/
def roundNearest (tie : TieMode) (n d : Int) : Int :=
  let q := n / d
  let r := n % d
  if 2 * r < d then q
  else if d < 2 * r then q + 1
  else match tie with
    | .halfEven => if q % 2 = 0 then q else q + 1
    | .halfAway => if 0 ≤ q then q + 1 else q
    | .referenceB64 => if q % 2 = 0 then q else q + 1

/-- A finite binary64 value as the exact number `num / 2 ^ exp`. -/
structure Binary64 where
  num : Int
  exp : Nat
deriving DecidableEq, Repr

/-- Whether `a / d`, scaled by `2 ^ k`, lies below `2 ^ 52`. -/
def scaledBelow (a d : Nat) (k : Int) : Bool :=
  decide (a * 2 ^ k.toNat < 2 ^ 52 * d * 2 ^ (-k).toNat)

/-- The scale at which `a / d` has a 53-bit significand, `2^52 <= a/d * 2^k < 2^53`; at most 1074, the
scale of the subnormal numbers. -/
def binary64Scale (a d : Nat) : Int :=
  let k : Int := 52 - ((Nat.log2 a : Int) - (Nat.log2 d : Int))
  min 1074 (if scaledBelow a d k then k + 1 else k)

/-- The binary64 value nearest to `n / d`, a tie to the even significand. No value of the map comes near
the overflow bound, so there is no infinity here (log 9). -/
def binary64Round (n : Int) (d : Nat) : Binary64 :=
  if n = 0 then { num := 0, exp := 0 }
  else
    let k := binary64Scale n.natAbs d
    let q := roundNearest .halfEven (n.natAbs * 2 ^ k.toNat : Nat) (d * 2 ^ (-k).toNat : Nat)
    { num := n.sign * q * (2 ^ (-k).toNat : Nat), exp := k.toNat }

/-- Binary64 subtraction. -/
def binary64Sub (x y : Binary64) : Binary64 :=
  binary64Round (x.num * 2 ^ y.exp - y.num * 2 ^ x.exp) (2 ^ (x.exp + y.exp))

/-- Binary64 multiplication. -/
def binary64Mul (x y : Binary64) : Binary64 :=
  binary64Round (x.num * y.num) (2 ^ (x.exp + y.exp))

/-- `round_half_even(x)` of a binary64 value. -/
def binary64ToInt (x : Binary64) : Int :=
  roundNearest .halfEven x.num (2 ^ x.exp : Nat)

end Sys2Proof.Machine
end

