-- ==== Sys2Proof/Machine/FrameDecoder.lean ====
section
/-!
DEFINITION. The affine value map and the frame decoder (spec/42_frame_decoder.md R140 to R151).
-/
namespace Sys2Proof.Machine

/-- The numerator of the exact value, `510000*w - 357*RATE` (R146). -/
def mapNumerator (c : Config) (w : Int) : Int := 510000 * w - 357 * c.rate

/-- Its denominator, `2*RATE` (R146). -/
def mapDenominator (c : Config) : Int := 2 * c.rate

/-- The map under `reference_b64` (R147): `round_half_even(((w / RATE) - c) * 1000 * 255)`, every operation
in binary64, `c` the value nearest 0.0007 (PRESUMED, log 9). -/
def mapValueB64 (c : Config) (w : Int) : Int :=
  let duration := binary64Round w c.rate
  let offset := binary64Round 7 10000
  let scaled := binary64Mul (binary64Sub duration offset) (binary64Round 1000 1)
  binary64ToInt (binary64Mul scaled (binary64Round 255 1))

/-- `MapValue(w)` (R146), never clamped (R148). -/
def mapValue (c : Config) (w : Int) : Int :=
  match c.tieMode with
  | .halfEven => roundNearest .halfEven (mapNumerator c w) (mapDenominator c)
  | .halfAway => roundNearest .halfAway (mapNumerator c w) (mapDenominator c)
  | .referenceB64 => mapValueB64 c w

/-- Whether a width is a sync gap: `w >= MARKER_WIDTH` (R141, R145). -/
def isGap (c : Config) (w : Int) : Bool := decide ((markerWidth c : Int) ≤ w)

/-- The WRITE event of a channel pulse of width `w` on channel `k` (R143, R149). -/
def channelEvent (c : Config) (k : Nat) (w : Int) : Event :=
  .write (axisAt c k) (enc16 (mapValue c w))

/-- `FrameStep(w)` (R141): a sync gap (R142), a channel pulse (R143), or a dropped pulse (R144). -/
def frameStep (w : Int) (s : State) : State :=
  if isGap s.cfg w then { s with synced := true, ch := 0 }
  else if s.synced ∧ s.ch < nch s.cfg then
    emit (channelEvent s.cfg s.ch w) { s with ch := s.ch + 1, syncReq := true }
  else s

end Sys2Proof.Machine
end

