-- ==== Sys2Proof/Machine/Sample.lean ====
section
/-!
DEFINITION. SAMPLE (spec/41_pulse_timer.md R120 to R125).
-/
namespace Sys2Proof.Machine

/-- Falling-edge capture at the current index, overwriting an earlier offset (R121). -/
def captureFall (s : State) : State :=
  { s with feValid := true, feOff := s.blkIdx }

/-- Rising-edge measurement (R122): `FrameStep(i - FE_OFF)` where a falling edge is recorded, nothing
otherwise (R123). The recorded edge stays (R125, C1). -/
def measureRise (s : State) : State :=
  if s.feValid then frameStep (s.blkIdx - s.feOff) s else s

/-- What the pulse timer does on a transition (R120). -/
def onEdge (t : Edge) (s : State) : State :=
  match t with
  | .falling => captureFall s
  | .rising => measureRise s
  | .noEdge => s

/-- The step to the next index of the block (R24, R120). -/
def advanceIndex (s : State) : State := { s with blkIdx := s.blkIdx + 1 }

/-- A SAMPLE that is accepted (R120). -/
def acceptSample (x : Int) (s : State) : State :=
  let cur := sampleLevel s.cfg x
  advanceIndex (onEdge (transition s.level cur) { s with level := cur })

/-- `SAMPLE x` (R120): refused with BLOCK_OVERFLOW at `BLK_IDX = BLOCK_MAX` (R181). -/
def execSample (x : Int) (s : State) : Host.Outcome State Fault Refusal :=
  if s.blkIdx = s.cfg.blockMax then .next (raiseError .blockOverflow s)
  else .next (acceptSample x s)

end Sys2Proof.Machine
end

