-- ==== Sys2Proof/Machine/Dispatch.lean ====
section
/-!
DEFINITION. One arm per command: the meaning each runs.
-/
namespace Sys2Proof.Machine

def exec (i : Instr) (s : State) : Host.Outcome State Fault Refusal :=
  match i with
  | .sample x => Sys2Proof.Machine.execSample x s
  | .endBlock => Sys2Proof.Machine.execEndBlock s

end Sys2Proof.Machine
end

