-- ==== Sys2Proof/Machine/Step.lean ====
section
/-!
DEFINITION. One step is one clock cycle (spec/70_reset_and_hazards.md R217): the presented cycle is taken, then reset,
an illegal word's error, a command, or nothing.
-/
namespace Sys2Proof.Machine

/-- One clock cycle. -/
def step (s : State) : Host.Outcome State Fault Refusal :=
  match nextAction s with
  | .idle => .next (beginCycle s)
  | .reset => .next (performReset (beginCycle s))
  | .illegal => .next (raiseError .illegalCmd (beginCycle s))
  | .run i => exec i (beginCycle s)

/-- `s` with the word `w` presented on the command port in the next cycle (log 4). -/
def State.withFetchWord (s : State) (nbits w : Nat) : State :=
  presentWords [BitVec.ofNat 32 (w % 2 ^ nbits)] s

end Sys2Proof.Machine
end

