-- ==== Sys2Proof/Machine/Assembly.lean ====
section
/-!
DEFINITION. The assembler (spec/30_encoding.md R82 to R84): command lines, pseudo-instructions and how events are written.
It stands beside the machine: no step reads it. What the spec leaves open of the text's layout is log 16.
-/
namespace Sys2Proof.Machine

/-- One line of assembly (R82 to R84). `END` is `END_BLOCK`. -/
inductive AsmLine where
  | sample (v : Int)
  | endBlock
  | word (w : Word)
  | feed (vs : List Int)
  | samples (v : Int) (n : Nat)
  | low (n : Nat)
  | high (n : Nat)
deriving DecidableEq, Repr

/-- The sample `LOW` stands for (R84). -/
def lowSample : Int := 0

/-- The sample `HIGH` stands for (R84). -/
def highSample : Int := 20000

/-- The words a line expands to (R82 to R84). -/
def expandLine : AsmLine → List Word
  | .sample v => [encode (.sample v)]
  | .endBlock => [encode .endBlock]
  | .word w => [w]
  | .feed vs => vs.map (fun v => encode (.sample v)) ++ [encode .endBlock]
  | .samples v n => List.replicate n (encode (.sample v))
  | .low n => List.replicate n (encode (.sample lowSample))
  | .high n => List.replicate n (encode (.sample highSample))

/-- The words of a program, one line after the other. -/
def expandProgram (lines : List AsmLine) : List Word := lines.flatMap expandLine

/-! The text of a line. -/

/-- The pieces of a text between the separators. -/
def splitAtChar (sep : Char) : List Char → List (List Char)
  | [] => [[]]
  | c :: cs =>
    if c = sep then [] :: splitAtChar sep cs
    else match splitAtChar sep cs with
      | [] => [[c]]
      | p :: ps => (c :: p) :: ps

/-- Space, tab and carriage return separate words (log 16). -/
def isBlank (c : Char) : Bool := c = ' ' || c = '\t' || c = '\r'

/-- A text without the blanks at its two ends. -/
def trimBlanks (cs : List Char) : List Char :=
  ((cs.dropWhile isBlank).reverse.dropWhile isBlank).reverse

/-- The value of a digit in a base up to 16. -/
def digitValue (base : Nat) (c : Char) : Option Nat :=
  let n := c.toNat
  let v :=
    if 48 ≤ n ∧ n ≤ 57 then n - 48
    else if 65 ≤ n ∧ n ≤ 70 then n - 55
    else if 97 ≤ n ∧ n ≤ 102 then n - 87
    else base
  if v < base then some v else none

/-- The digits of a number, the value read so far first. -/
def readDigits (base acc : Nat) : List Char → Option Nat
  | [] => some acc
  | c :: cs =>
    match digitValue base c with
    | some v => readDigits base (acc * base + v) cs
    | none => none

/-- A number with at least one digit. -/
def readNumber (base : Nat) (cs : List Char) : Option Nat :=
  if cs = [] then none else readDigits base 0 cs

/-- A `0x` number below `bound`. -/
def readHex (bound : Nat) : List Char → Option Nat
  | '0' :: 'x' :: cs =>
    match readNumber 16 cs with
    | some n => if n < bound then some n else none
    | none => none
  | _ => none

/-- An integer operand before its range check: decimal, negative decimal, or a 16-bit pattern. -/
def readInteger (cs : List Char) : Option Int :=
  match readHex 65536 cs with
  | some n => some (sext16 (BitVec.ofNat 16 n))
  | none =>
    match cs with
    | '-' :: ds => (readNumber 10 ds).map fun n => -(n : Int)
    | ds => (readNumber 10 ds).map fun n => (n : Int)

/-- A sample operand, with value in -32768..32767 (R82). -/
def readSample (cs : List Char) : Option Int :=
  match readInteger (trimBlanks cs) with
  | some v => if sampleInRange v then some v else none
  | none => none

/-- The count `<n>` of SAMPLES, LOW and HIGH: decimal digits only. DESIGN CHOICE (log 16): R84 says `n >= 0` and
no number format. -/
def readCount (cs : List Char) : Option Nat := readNumber 10 cs

/-- All of a list of optional values, or none. -/
def allSome {α : Type} : List (Option α) → Option (List α)
  | [] => some []
  | none :: _ => none
  | some a :: rest => (allSome rest).map (a :: ·)

/-- The operands of a line, between commas; none where nothing stands. -/
def operandsOf (cs : List Char) : List (List Char) :=
  if trimBlanks cs = [] then [] else (splitAtChar ',' cs).map trimBlanks

/-- The line a mnemonic and its operands make (R82 to R84). The number formats of a count and of FEED's and
SAMPLES's values are a DESIGN CHOICE (log 16). -/
def readLine (mnemonic : List Char) (operands : List (List Char)) : Option AsmLine :=
  if mnemonic = ['S', 'A', 'M', 'P', 'L', 'E'] then
    match operands with
    | [v] => (readSample v).map .sample
    | _ => none
  else if mnemonic = ['E', 'N', 'D', '_', 'B', 'L', 'O', 'C', 'K'] ∨ mnemonic = ['E', 'N', 'D'] then
    match operands with
    | [] => some .endBlock
    | _ => none
  else if mnemonic = ['.', 'w', 'o', 'r', 'd'] then
    match operands with
    | [w] => (readHex (2 ^ 32) w).map fun n => .word (BitVec.ofNat 32 n)
    | _ => none
  else if mnemonic = ['F', 'E', 'E', 'D'] then
    (allSome (operands.map readSample)).map .feed
  else if mnemonic = ['S', 'A', 'M', 'P', 'L', 'E', 'S'] then
    match operands with
    | [v, n] =>
      match readSample v, readCount n with
      | some v, some n => some (.samples v n)
      | _, _ => none
    | _ => none
  else if mnemonic = ['L', 'O', 'W'] then
    match operands with
    | [n] => (readCount n).map .low
    | _ => none
  else if mnemonic = ['H', 'I', 'G', 'H'] then
    match operands with
    | [n] => (readCount n).map .high
    | _ => none
  else none

/-- The words of one line of text: a comment begins with `;`, and a line without a command gives none. -/
def assembleLine (text : List Char) : Option (List Word) :=
  let code := trimBlanks (text.takeWhile fun c => c ≠ ';')
  if code = [] then some []
  else
    let mnemonic := code.takeWhile fun c => !isBlank c
    (readLine mnemonic (operandsOf (code.drop mnemonic.length))).map expandLine

/-- The words of a program text, one command a line; none where a line is no line of R82 to R84. -/
def assemble (text : List Char) : Option (List Word) :=
  (allSome ((splitAtChar '\n' text).map assembleLine)).map List.flatten

/-- How an event is written (R82). -/
def eventText : Event → String
  | .write axis value => "WRITE(" ++ toString axis.toNat ++ ", " ++ toString (sext16 value) ++ ")"
  | .sync => "SYNC"
  | .declare => "DECLARE"

end Sys2Proof.Machine
end

