-- ==== Sys2Proof/Machine/Events.lean ====
section
/-!
DEFINITION. The event words (spec/30_encoding.md R76 to R80) and the event and status ports (spec/10_state.md R32).
-/
namespace Sys2Proof.Machine

/-- The word of an event: WRITE (R77), SYNC (R78), DECLARE (R79). -/
def eventWord (c : Config) : Event → Word
  | .write axis value => 0b01#2 ++ 0b00#2 ++ axis ++ 0x00#8 ++ value
  | .sync => 0x80000000
  | .declare => 0b11#2 ++ 0b00#2 ++ BitVec.ofNat 4 (nch c - 1) ++ c.nbutton ++ c.axisHi ++ c.axisLo

/-- The event a reader recovers from a word; `none` for a word that PPMDEC never emits (R80). -/
def eventOfWord (c : Config) (w : Word) : Option Event :=
  if w = eventWord c .sync then some .sync
  else if w = eventWord c .declare then some .declare
  else if w = eventWord c (.write (axisField w) (valueField w)) then some (.write (axisField w) (valueField w))
  else none

/-- `evt_valid` (R32). -/
def evtValid (s : State) : Bool := s.evtOut.isSome

/-- `evt`: the event word while `evt_valid` holds; the spec states no value otherwise (log 11). -/
def evtWord (s : State) : Option Word := s.evtOut.map (eventWord s.cfg)

end Sys2Proof.Machine
end

