-- ==== Sys2Proof/Machine/Status.lean ====
section
/-!
DEFINITION. The read-only status space (spec/10_state.md R33 to R35). A status read is a function of the state, not a
step: it has no side effect and sees the last completed step (spec/20_memory.md R53).
-/
namespace Sys2Proof.Machine

/-- The code of a cause in `ERR_CAUSE` (R181). -/
def causeCode : ErrCause → BitVec 2
  | .noError => 0
  | .illegalCmd => 1
  | .blockOverflow => 2

/-- A flag as one bit. -/
def bit (b : Bool) : BitVec 1 := BitVec.ofBool b

/-- `STATUS` (R34), from bit 31 down to bit 0; unlisted bits read 0. -/
def statusWord (s : State) : Word :=
  0#13 ++ causeCode s.errCause ++ bit s.err ++ 0#7 ++ BitVec.ofNat 5 s.ch ++
    bit s.syncReq ++ bit s.level ++ bit s.feValid ++ bit s.synced

/-- Eight entries of `AXIS_MAP` from entry `k`, the first in the low bits: `CFG_AXISMAP0`, `CFG_AXISMAP1` (R33). -/
def axisMapWord (c : Config) (k : Nat) : Word :=
  axisAt c (k + 7) ++ axisAt c (k + 6) ++ axisAt c (k + 5) ++ axisAt c (k + 4) ++
    axisAt c (k + 3) ++ axisAt c (k + 2) ++ axisAt c (k + 1) ++ axisAt c k

/-- Status register `n` (R33); numbers 9 to 15 are reserved and read as 0. -/
def statusRegister (s : State) (n : BitVec 4) : Word :=
  match n.toNat with
  | 0 => statusWord s
  | 1 => BitVec.ofInt 32 s.feOff
  | 2 => BitVec.ofNat 32 s.blkIdx
  | 3 => BitVec.ofNat 32 s.cfg.rate
  | 4 => BitVec.ofInt 32 s.cfg.threshold
  | 5 => BitVec.ofNat 32 (markerWidth s.cfg)
  | 6 => BitVec.ofNat 32 (nch s.cfg)
  | 7 => axisMapWord s.cfg 0
  | 8 => axisMapWord s.cfg 8
  | _ => 0

/-- `stat_data`: the register the presented `stat_addr` names, as of the last clock edge (R32, R217); the
spec states no value where the host presents no cycle (log 11). -/
def statData (s : State) : Option Word :=
  s.inputs.head?.map fun c => statusRegister s c.statAddr

end Sys2Proof.Machine
end

