-- ==== Sys2Proof/Safety.lean ====
section
/-!
DEFINITION. What claims about PPMDEC are stated in: the safe states (spec/60_exceptions.md R184), the invariants
(spec/10_state.md R42), runs (spec/70_reset_and_hazards.md R220), and the notions of the carry rule
(spec/41_pulse_timer.md R131).
-/
namespace Sys2Proof.Machine

/-- A run is safe while no error has occurred: a claim takes `ERR = 0` at its end as a premise (R184). -/
abbrev Safe (s : State) : Prop := s.err = false

/-- Whether an event is a WRITE. -/
def isWrite : Event → Bool
  | .write _ _ => true
  | .sync => false
  | .declare => false

/-- Whether the last event of a sequence is a WRITE. -/
def lastIsWrite (es : List Event) : Bool := (es.getLast?.map isWrite).getD false

/-- The WRITE events of a sequence, in order. -/
def writesOf (es : List Event) : List Event := es.filter isWrite

/-- What holds at every step boundary: the seven items of R42, and R25's flag at a block's start. A SYNC or
a DECLARE follows every clearing of `SYNC_REQ` that a WRITE had set, so item 6 reads: the flag is set exactly
when the last event emitted is a WRITE. -/
structure Invariant (s : State) : Prop where
  /-- item 1 -/
  unsyncedChannel : s.synced = false → s.ch = 0
  /-- item 2 -/
  channelBound : s.ch ≤ nch s.cfg
  /-- item 3 -/
  unsetOffset : s.feValid = false → s.feOff = 0
  /-- item 4 -/
  offsetRange : s.feValid = true → -(s.cfg.rate : Int) ≤ s.feOff ∧ s.feOff ≤ (s.blkIdx : Int) - 1
  /-- item 5 -/
  indexBound : s.blkIdx ≤ s.cfg.blockMax
  /-- item 6 -/
  syncRequest : s.syncReq = lastIsWrite s.events
  /-- item 7 -/
  errorCause : s.err = false ↔ s.errCause = .noError
  /-- R25 -/
  blockStart : s.blkIdx = 0 → s.syncReq = false

/-- The order of events R57 gives, as a form of the whole sequence: it begins with DECLARE, and each SYNC
directly follows a WRITE of its block. -/
def EventsOrdered (es : List Event) : Prop :=
  es.head? = some .declare ∧
  ∀ before after : List Event, es = before ++ .sync :: after → lastIsWrite before = true

/-- The commands of a list, one after the other, without the ports. -/
def execAll : List Instr → State → Host.Outcome State Fault Refusal
  | [], s => .next s
  | i :: is, s =>
    match exec i s with
    | .next t => execAll is t
    | .fault r => .fault r
    | .refused r => .refused r

/-- The words `ws` presented one a cycle, and as many steps. -/
def runWords (ws : List Word) (s : State) : Host.Outcome State Fault Refusal :=
  Sys2Proof.core.run ws.length (presentWords ws s)

/-- The samples of a command list, in order: the stream without its cuts into blocks. -/
def samplesOf : List Instr → List Int
  | [] => []
  | .sample x :: is => x :: samplesOf is
  | .endBlock :: is => samplesOf is

/-- No SAMPLE of the list is refused and the sync-loss guard fires at no END_BLOCK of it. -/
def Quiet : List Instr → State → Prop
  | [], _ => True
  | .sample x :: is, s =>
    s.blkIdx ≠ s.cfg.blockMax ∧ ∀ t, exec (.sample x) s = .next t → Quiet is t
  | .endBlock :: is, s =>
    (s.feValid = true → -(s.cfg.rate : Int) ≤ s.feOff - s.blkIdx) ∧
      ∀ t, exec .endBlock s = .next t → Quiet is t

/-- Samples since the last recorded falling edge, that edge's sample among them: the age the guard sees
(R163) and the width a rising edge would measure (R122). -/
def fallAge (s : State) : Int := s.blkIdx - s.feOff

/-- Two states that differ only in where the stream was cut into blocks (R131): the same level, frame state,
WRITE events and age of the recorded falling edge. -/
structure CutEquivalent (s t : State) : Prop where
  level : s.level = t.level
  feValid : s.feValid = t.feValid
  age : s.feValid = true → fallAge s = fallAge t
  synced : s.synced = t.synced
  ch : s.ch = t.ch
  cfg : s.cfg = t.cfg
  writes : writesOf s.events = writesOf t.events

/-- A low interval of `w` samples ended by one high sample: the shape of every measured width (C5). -/
def pulseSamples (low high : Int) (w : Nat) : List Int := List.replicate w low ++ [high]

/-- The samples of a synthetic frame: a gap of width `g`, then pulses of the widths `ws` (95 S2). -/
def frameSamples (low high : Int) (g : Nat) (ws : List Nat) : List Int :=
  pulseSamples low high g ++ ws.flatMap (pulseSamples low high)

/-- The WRITE events of a frame whose pulses have the widths `ws`, on the channels from `k` on. -/
def frameWrites (c : Config) (k : Nat) : List Nat → List Event
  | [] => []
  | w :: ws => channelEvent c k w :: frameWrites c (k + 1) ws

end Sys2Proof.Machine
end

