-- ==== Sys2Proof/Certificates/Slice0/Obligations.lean ====
section
/-!
DEFINITION. The statements about PPMDEC, each from the numbered rules its docstring names.
-/
open Sys2Proof Sys2Proof.Machine

/-! Encodings. -/

/-- R85: each command of the encodings table, its word, and that the word decodes to it. -/
def Obligations.EncodingTableWordsDecode : Prop :=
  ∀ p ∈ [(Instr.sample 0, (0x00000000 : Word)), (.sample 15000, 0x00003A98), (.sample 15001, 0x00003A99),
      (.sample 20000, 0x00004E20), (.sample (-1), 0x0000FFFF), (.sample (-32768), 0x00008000),
      (.sample 32767, 0x00007FFF), (.endBlock, 0x40000000)],
    encode p.1 = p.2 ∧ decode p.2 = .command p.1

/-- R71: exactly the words with `cmd[31:16] = 0` are SAMPLE, and the operand is `sext_16(cmd[15:0])`. -/
def Obligations.SampleFormat : Prop :=
  ∀ (w : Word) (x : Int), decode w = .command (.sample x) ↔
    w.toNat < 2 ^ 16 ∧ x = if w.toNat < 2 ^ 15 then (w.toNat : Int) else (w.toNat : Int) - 2 ^ 16

/-- R72: END_BLOCK is `0x40000000` exactly. -/
def Obligations.EndBlockFormat : Prop :=
  ∀ w : Word, decode w = .command .endBlock ↔ w = 0x40000000

/-- R73: the illegal words are the four cases listed, and such a word, presented in a cycle without reset,
sets the error status and changes no decoder state. -/
def Obligations.IllegalWordsRaiseOnlyError : Prop :=
  (∀ w : Word, (∃ r, decode w = .illegal r) ↔
    w.toNat / 2 ^ 30 = 2 ∨ w.toNat / 2 ^ 30 = 3 ∨
    (w.toNat / 2 ^ 30 = 0 ∧ w.toNat / 2 ^ 16 % 2 ^ 14 ≠ 0) ∨
    (w.toNat / 2 ^ 30 = 1 ∧ w.toNat % 2 ^ 30 ≠ 0)) ∧
  ∀ (s : State) (w : Word) (a : BitVec 4) (rest : List PortCycle),
    s.inputs = { rst := false, cmdValid := true, cmd := w, statAddr := a } :: rest →
    (∃ r, decode w = .illegal r) →
    step s = .next { s with
      inputs := rest, evtOut := none, err := true,
      errCause := if s.errCause = .noError then .illegalCmd else s.errCause }

/-- Decode of the encoding of any well-formed command is that command (R71, R72, R74). -/
def Obligations.DecodeOfEncode : Prop :=
  ∀ i : Instr, WellFormed i → decode (encode i) = .command i

/-- Each legal word is the encoding of the well-formed command it decodes to (R71, R72, R74). -/
def Obligations.EncodeOfDecode : Prop :=
  ∀ (w : Word) (i : Instr), decode w = .command i → WellFormed i ∧ encode i = w

/-- The fields of a WRITE word (R76, R77), with the rule's example. -/
def Obligations.WriteWordFields : Prop :=
  (∀ (c : Config) (axis : BitVec 4) (value : BitVec 16),
    (eventWord c (.write axis value)).toNat = 2 ^ 30 + axis.toNat * 2 ^ 24 + value.toNat ∧
    axisField (eventWord c (.write axis value)) = axis ∧
    valueOfWord (eventWord c (.write axis value)) = value.toInt) ∧
  ∀ c : Config, eventWord c (.write 2 (enc16 (-51))) = 0x4200FFCD

/-- The words of SYNC (R78) and of DECLARE (R79), with this hardware's DECLARE. -/
def Obligations.SyncAndDeclareWords : Prop :=
  (∀ c : Config, (eventWord c .sync).toNat = 0x80000000 ∧
    (eventWord c .declare).toNat =
      3 * 2 ^ 30 + (c.axisMap.length - 1) * 2 ^ 24 + c.nbutton.toNat * 2 ^ 16 + c.axisHi.toNat * 2 ^ 8 +
        c.axisLo.toNat) ∧
  eventWord Config.hardware .declare = 0xC301FF00

/-- A reader recovers every event from its word, and no word has `KIND = 00` (R76, R80, R81). -/
def Obligations.EventWordsReadBack : Prop :=
  ∀ (c : Config) (e : Event),
    eventOfWord c (eventWord c e) = some e ∧ kindField (eventWord c e) ≠ 0b00#2

/-- R9: instantiation accepts exactly the parameters that meet the constraints. -/
def Obligations.InstantiationChecksParameters : Prop :=
  ∀ p : Params,
    (p.instantiate = none ↔
      ¬((1 ≤ p.rate ∧ p.rate ≤ 16777216) ∧ (-32768 ≤ p.threshold ∧ p.threshold ≤ 32767) ∧
        (1 ≤ p.axisMap.length ∧ p.axisMap.length ≤ 16) ∧ (1 ≤ p.blockMax ∧ p.blockMax ≤ 16777216))) ∧
    ∀ c : Config, p.instantiate = some c → c.toParams = p

/-! Steps. -/

/-- A cycle that presents a legal word without reset runs exactly the command it decodes to; the step adds
only the taking of the cycle and the clearing of the event port (R217, R219). -/
def Obligations.StepRunsPresentedCommand : Prop :=
  ∀ (s : State) (w : Word) (a : BitVec 4) (rest : List PortCycle) (i : Instr),
    s.inputs = { rst := false, cmdValid := true, cmd := w, statAddr := a } :: rest →
    WellFormed i → decode w = .command i →
    step s = exec i { s with inputs := rest, evtOut := none }

/-- A word placed by `withFetchWord` is the command the very next step runs. -/
def Obligations.PlacedWordRunsNext : Prop :=
  ∀ (s : State) (nbits w : Nat) (i : Instr), decodeTableWord nbits w = some i →
    step (s.withFetchWord nbits w) = exec i { s with evtOut := none }

/-- R200, R202: a cycle with `rst` high, whatever command it presents, performs `Reset()` and emits DECLARE. -/
def Obligations.ResetStepWins : Prop :=
  ∀ (s : State) (c : PortCycle) (rest : List PortCycle),
    s.inputs = c :: rest → c.rst = true →
    step s = .next { s with
      level := false, feValid := false, feOff := 0, synced := false, ch := 0, blkIdx := 0,
      syncReq := false, err := false, errCause := .noError, inputs := rest,
      evtOut := some .declare, events := s.events ++ [.declare] }

/-- R193: a cycle without a command and without reset, or no cycle at all, holds the state. -/
def Obligations.IdleHoldsState : Prop :=
  ∀ s : State, (∀ c ∈ s.inputs.head?, c.rst = false ∧ c.cmdValid = false) →
    step s = .next { s with inputs := s.inputs.tail, evtOut := none }

/-- R41: what reset leaves, for every configuration and so for this hardware; DECLARE is emitted (R202). -/
def Obligations.ResetValues : Prop :=
  (∀ c : Config, (State.resetFor c).level = false ∧ (State.resetFor c).feValid = false ∧
    (State.resetFor c).feOff = 0 ∧ (State.resetFor c).synced = false ∧ (State.resetFor c).ch = 0 ∧
    (State.resetFor c).blkIdx = 0 ∧ (State.resetFor c).syncReq = false ∧
    (State.resetFor c).err = false ∧ (State.resetFor c).errCause = .noError ∧
    (State.resetFor c).events = [.declare] ∧ (State.resetFor c).cfg = c) ∧
  State.reset = State.resetFor Config.hardware

/-- PPMDEC never halts (R220): every step of every state answers a next state. -/
def Obligations.StepNeverStops : Prop :=
  ∀ s : State, ∃ t, step s = .next t ∧ t.inputs = s.inputs.tail ∧ t.cfg = s.cfg

/-- R218: what each kind of step appends to the event sequence, and that it is what the event port shows. -/
def Obligations.AtMostOneEventPerStep : Prop :=
  ∀ s t : State, step s = .next t →
    t.events = s.events ++ t.evtOut.toList ∧
    match nextAction s with
    | .idle => t.evtOut = none
    | .reset => t.evtOut = some .declare
    | .illegal => t.evtOut = none
    | .run (.sample _) =>
      (t.evtOut = none ∨ ∃ axis value, t.evtOut = some (.write axis value)) ∧
      (s.blkIdx = s.cfg.blockMax → t.evtOut = none)
    | .run .endBlock => t.evtOut = if s.syncReq then some .sync else none

/-! SAMPLE. -/

/-- SAMPLE, equal levels: only BLK_IDX advances (R101, R120). -/
def Obligations.SampleEqualLevels : Prop :=
  ∀ (s : State) (x : Int), s.blkIdx ≠ s.cfg.blockMax → (s.level = true ↔ s.cfg.threshold < x) →
    exec (.sample x) s = .next { s with blkIdx := s.blkIdx + 1 }

/-- R121: a falling edge captures its index, whatever the frame state and whatever FE_VALID was. -/
def Obligations.SampleFallingEdgeCaptures : Prop :=
  ∀ (s : State) (x : Int), s.blkIdx ≠ s.cfg.blockMax → s.level = true → x ≤ s.cfg.threshold →
    exec (.sample x) s = .next { s with
      level := false, feValid := true, feOff := s.blkIdx, blkIdx := s.blkIdx + 1 }

/-- R123: a rising edge with FE_VALID = 0 has no effect beyond LEVEL and BLK_IDX. -/
def Obligations.SampleRiseWithoutFall : Prop :=
  ∀ (s : State) (x : Int), s.blkIdx ≠ s.cfg.blockMax → s.level = false → s.cfg.threshold < x →
    s.feValid = false →
    exec (.sample x) s = .next { s with level := true, blkIdx := s.blkIdx + 1 }

/-- R142: a measured width of at least MARKER_WIDTH gives Synced(0) from every frame state, without a WRITE
and with SYNC_REQ as it was. -/
def Obligations.SampleSyncGap : Prop :=
  ∀ (s : State) (x : Int), s.blkIdx ≠ s.cfg.blockMax → s.level = false → s.cfg.threshold < x →
    s.feValid = true → (markerWidth s.cfg : Int) ≤ (s.blkIdx : Int) - s.feOff →
    exec (.sample x) s = .next { s with
      level := true, synced := true, ch := 0, blkIdx := s.blkIdx + 1 }

/-- R143, R149: a shorter width at Synced(k), k < NCH, emits WRITE(AXIS_MAP[k], MapValue(w)), moves to
Synced(k+1) and sets SYNC_REQ. CH increases nowhere else, and by exactly one. -/
def Obligations.SampleChannelPulse : Prop :=
  (∀ (s : State) (x : Int) (h : s.ch < s.cfg.axisMap.length),
    s.blkIdx ≠ s.cfg.blockMax → s.level = false → s.cfg.threshold < x → s.feValid = true →
    (s.blkIdx : Int) - s.feOff < markerWidth s.cfg → s.synced = true →
    exec (.sample x) s = .next { s with
      level := true, ch := s.ch + 1, syncReq := true, blkIdx := s.blkIdx + 1,
      evtOut := some (.write s.cfg.axisMap[s.ch] (enc16 (mapValue s.cfg (s.blkIdx - s.feOff)))),
      events := s.events ++
        [.write s.cfg.axisMap[s.ch] (enc16 (mapValue s.cfg (s.blkIdx - s.feOff)))] }) ∧
  ∀ s t : State, step s = .next t → s.ch < t.ch →
    t.ch = s.ch + 1 ∧ s.synced = true ∧ s.ch < s.cfg.axisMap.length ∧
    (s.blkIdx : Int) - s.feOff < markerWidth s.cfg

/-- R144: a shorter width while Unsynced, or at CH >= NCH, is dropped. -/
def Obligations.SampleDroppedPulse : Prop :=
  ∀ (s : State) (x : Int), s.blkIdx ≠ s.cfg.blockMax → s.level = false → s.cfg.threshold < x →
    s.feValid = true → (s.blkIdx : Int) - s.feOff < markerWidth s.cfg →
    (s.synced = false ∨ s.cfg.axisMap.length ≤ s.ch) →
    exec (.sample x) s = .next { s with level := true, blkIdx := s.blkIdx + 1 }

/-- A SAMPLE at BLK_IDX = BLOCK_MAX raises BLOCK_OVERFLOW and is not processed (R181, R182). -/
def Obligations.SampleOverflowTraps : Prop :=
  ∀ (s : State) (x : Int), s.blkIdx = s.cfg.blockMax →
    exec (.sample x) s = .next { s with
      err := true, errCause := if s.errCause = .noError then .blockOverflow else s.errCause }

/-- SAMPLE below BLOCK_MAX completes on every operand, with LEVEL and BLK_IDX as R120 gives, and its frame:
the configuration, the inputs and the error status stay; the offset changes only on a falling edge (R125); the
frame state, the request and the events only on a rising edge with FE_VALID = 1. -/
def Obligations.SampleCompletesWithFrame : Prop :=
  ∀ (s : State) (x : Int), s.blkIdx ≠ s.cfg.blockMax →
    ∃ t, exec (.sample x) s = .next t ∧
      (t.level = true ↔ s.cfg.threshold < x) ∧ t.blkIdx = s.blkIdx + 1 ∧
      t.cfg = s.cfg ∧ t.inputs = s.inputs ∧ t.err = s.err ∧ t.errCause = s.errCause ∧
      (¬(s.level = true ∧ x ≤ s.cfg.threshold) → t.feValid = s.feValid ∧ t.feOff = s.feOff) ∧
      (¬(s.level = false ∧ s.cfg.threshold < x ∧ s.feValid = true) →
        t.synced = s.synced ∧ t.ch = s.ch ∧ t.syncReq = s.syncReq ∧
        t.evtOut = s.evtOut ∧ t.events = s.events)

/-! END_BLOCK. -/

/-- END_BLOCK in every state: the SYNC decision, the cleared request, normalisation, the guard on the
normalised offset, BLK_IDX = 0; nothing else changes (R126, R128, R129, R160). -/
def Obligations.EndBlockResult : Prop :=
  ∀ s : State,
    exec .endBlock s = .next
      (if s.feValid = true ∧ s.feOff - s.blkIdx < -(s.cfg.rate : Int) then
        { s with
          syncReq := false, blkIdx := 0, synced := false, ch := 0, feValid := false, feOff := 0,
          evtOut := if s.syncReq = true then some .sync else s.evtOut,
          events := if s.syncReq = true then s.events ++ [.sync] else s.events }
      else
        { s with
          syncReq := false, blkIdx := 0,
          feOff := if s.feValid = true then s.feOff - s.blkIdx else s.feOff,
          evtOut := if s.syncReq = true then some .sync else s.evtOut,
          events := if s.syncReq = true then s.events ++ [.sync] else s.events })

/-- The guard's comparison is strict (R160, C4): a normalised offset of `-RATE` keeps the state, one of
`-RATE - 1` loses sync. -/
def Obligations.GuardBoundary : Prop :=
  ∀ s : State, s.feValid = true →
    (s.feOff - s.blkIdx = -(s.cfg.rate : Int) →
      ∃ t, exec .endBlock s = .next t ∧ t.synced = s.synced ∧ t.ch = s.ch ∧ t.feValid = true ∧
        t.feOff = -(s.cfg.rate : Int)) ∧
    (s.feOff - s.blkIdx = -(s.cfg.rate : Int) - 1 →
      ∃ t, exec .endBlock s = .next t ∧ t.synced = false ∧ t.ch = 0 ∧ t.feValid = false ∧ t.feOff = 0)

/-- R127: END_BLOCK emits exactly one SYNC when a WRITE was emitted in the block, none otherwise, and clears
SYNC_REQ. Under the invariant a WRITE was emitted in the block exactly when the last event is one. -/
def Obligations.EndBlockSyncsWrites : Prop :=
  ∀ s : State, Invariant s →
    ∃ t, exec .endBlock s = .next t ∧ t.syncReq = false ∧
      t.events = if lastIsWrite s.events then s.events ++ [.sync] else s.events

/-- R130: END_BLOCK at BLK_IDX = 0 changes nothing and emits nothing. -/
def Obligations.EmptyBlockIsNoop : Prop :=
  ∀ s : State, Invariant s → s.blkIdx = 0 → exec .endBlock s = .next s

/-- R164 (and R53's idempotence): after an END_BLOCK, from any state, a second one changes nothing, so
the guard does not fire there. -/
def Obligations.SecondEndBlockChangesNothing : Prop :=
  ∀ s t : State, exec .endBlock s = .next t → exec .endBlock t = .next t

/-- R103, R162: END_BLOCK, with its guard, keeps LEVEL, ERR, ERR_CAUSE, the configuration and the inputs. -/
def Obligations.EndBlockFrame : Prop :=
  ∀ s : State, ∃ t, exec .endBlock s = .next t ∧ t.level = s.level ∧ t.err = s.err ∧
    t.errCause = s.errCause ∧ t.cfg = s.cfg ∧ t.inputs = s.inputs

/-! The value map. -/

/-- R145: a width is a gap exactly when it lasts 5 ms, and MARKER_WIDTH is `ceil(RATE/200)`. -/
def Obligations.MarkerWidthIsFiveMilliseconds : Prop :=
  ∀ c : Config,
    (∀ w : Int, (markerWidth c : Int) ≤ w ↔ (c.rate : Int) ≤ 200 * w) ∧
    1 ≤ markerWidth c ∧ markerWidth c ≤ c.rate ∧ (c.rate ≤ 200 → markerWidth c = 1)

/-- RoundNearest returns a nearest integer in every mode, and settles an exact half as its mode says (R147). -/
def Obligations.RoundNearestIsNearest : Prop :=
  ∀ (tie : TieMode) (n d : Int), 0 < d →
    2 * |n - d * roundNearest tie n d| ≤ d ∧
    (2 * |n - d * roundNearest tie n d| = d →
      match tie with
      | .halfEven => roundNearest tie n d % 2 = 0
      | .halfAway => |n| < d * |roundNearest tie n d|
      | .referenceB64 => roundNearest tie n d % 2 = 0)

/-- Away from exact halves RoundNearest is the unique nearest integer, whatever the tie mode (R147). -/
def Obligations.TieModesAgreeAwayFromTies : Prop :=
  ∀ (a b : TieMode) (n d v : Int), 0 < d → 2 * |n - d * v| < d →
    roundNearest a n d = v ∧ roundNearest b n d = v

/-- MapValue in the two exact modes is the exact rational `(w/RATE - 7/10000) * 1000 * 255` rounded to nearest,
an exact half to even in this hardware's mode (R146, R147). -/
def Obligations.MapValueIsExactAndNearest : Prop :=
  ∀ (c : Config) (w : Int), c.tieMode ≠ .referenceB64 →
    |((mapValue c w : Int) : ℚ) - ((w : ℚ) / (c.rate : ℚ) - 7 / 10000) * 1000 * 255| ≤ 1 / 2 ∧
    (c.tieMode = .halfEven →
      |((mapValue c w : Int) : ℚ) - ((w : ℚ) / (c.rate : ℚ) - 7 / 10000) * 1000 * 255| = 1 / 2 →
      mapValue c w % 2 = 0)

/-- The value of every channel pulse lies in -178..1096, in every tie mode, and its 16-bit field holds it (R148). -/
def Obligations.MapValueRange : Prop :=
  ∀ (c : Config) (w : Int), 1 ≤ w → w < markerWidth c →
    -178 ≤ mapValue c w ∧ mapValue c w ≤ 1096 ∧ sext16 (enc16 (mapValue c w)) = mapValue c w

/-- At RATE in 1..200 no step from a state of the invariant emits a WRITE (R145). -/
def Obligations.SlowRatesNeverWrite : Prop :=
  ∀ s t : State, Invariant s → s.cfg.rate ≤ 200 → step s = .next t →
    writesOf t.events = writesOf s.events

/-! Whole-machine rules. -/

/-- R21: only SAMPLE and reset change LEVEL. -/
def Obligations.LevelWriters : Prop :=
  ∀ s t : State, step s = .next t → t.level ≠ s.level →
    (∃ x, nextAction s = .run (.sample x) ∧ (t.level = true ↔ s.cfg.threshold < x)) ∨
    (nextAction s = .reset ∧ t.level = false)

/-- R22: the pair (FE_VALID, FE_OFF) after every step. Its writers are a falling edge of an accepted sample,
END_BLOCK when FE_VALID = 1, the guard and reset; a rising edge and every other step leave it. -/
def Obligations.OffsetWriters : Prop :=
  ∀ s t : State, step s = .next t →
    (t.feValid, t.feOff) =
      match nextAction s with
      | .run (.sample x) =>
        if s.blkIdx ≠ s.cfg.blockMax ∧ s.level = true ∧ x ≤ s.cfg.threshold then (true, (s.blkIdx : Int))
        else (s.feValid, s.feOff)
      | .run .endBlock =>
        if s.feValid = true ∧ s.feOff - s.blkIdx < -(s.cfg.rate : Int) then (false, 0)
        else if s.feValid = true then (true, s.feOff - s.blkIdx)
        else (s.feValid, s.feOff)
      | .reset => (false, 0)
      | .idle => (s.feValid, s.feOff)
      | .illegal => (s.feValid, s.feOff)

/-- BLK_IDX counts accepted samples and is cleared by END_BLOCK and reset; SYNC_REQ is set only with a WRITE and
cleared by END_BLOCK and reset (R24, R25, R30). -/
def Obligations.BlockIndexAndRequestWriters : Prop :=
  ∀ s t : State, step s = .next t →
    match nextAction s with
    | .run (.sample _) =>
      t.blkIdx = (if s.blkIdx = s.cfg.blockMax then s.blkIdx else s.blkIdx + 1) ∧
      (t.syncReq = true ↔ s.syncReq = true ∨ ∃ axis value, t.evtOut = some (.write axis value))
    | .run .endBlock => t.blkIdx = 0 ∧ t.syncReq = false
    | .reset => t.blkIdx = 0 ∧ t.syncReq = false
    | .idle => t.blkIdx = s.blkIdx ∧ t.syncReq = s.syncReq
    | .illegal => t.blkIdx = s.blkIdx ∧ t.syncReq = s.syncReq

/-- The writers of the frame state: a gap, which alone acquires sync, a channel pulse, the guard and reset. The
channel index advances by exactly one, only with a WRITE on a channel within the mapping (R23, R43, R150). -/
def Obligations.ChannelIndexMoves : Prop :=
  ∀ s t : State, step s = .next t → (t.synced ≠ s.synced ∨ t.ch ≠ s.ch) →
    (t.synced = true ∧ t.ch = 0 ∧ s.feValid = true ∧
      (markerWidth s.cfg : Int) ≤ (s.blkIdx : Int) - s.feOff ∧ t.evtOut = none ∧
      ∃ x, nextAction s = .run (.sample x) ∧ s.level = false ∧ s.cfg.threshold < x) ∨
    (t.synced = true ∧ s.synced = true ∧ s.ch < nch s.cfg ∧ t.ch = s.ch + 1 ∧
      (∃ x, nextAction s = .run (.sample x)) ∧
      ∃ value, t.evtOut = some (.write (axisAt s.cfg s.ch) value)) ∨
    (t.synced = false ∧ t.ch = 0 ∧ nextAction s = .run .endBlock ∧
      s.feOff - s.blkIdx < -(s.cfg.rate : Int)) ∨
    (t.synced = false ∧ t.ch = 0 ∧ nextAction s = .reset)

/-- ERR is sticky and ERR_CAUSE keeps the first cause: only reset clears them (R26, R182). -/
def Obligations.ErrorStatusIsSticky : Prop :=
  ∀ s t : State, step s = .next t → nextAction s ≠ .reset →
    (s.err = true → t.err = true) ∧ (s.errCause ≠ .noError → t.errCause = s.errCause)

/-- Only an illegal word and a SAMPLE at BLK_IDX = BLOCK_MAX raise an error, each with its cause; no sample value,
width, frame shape or block content does (R180, R181, R183). -/
def Obligations.OnlyTwoErrors : Prop :=
  ∀ s t : State, step s = .next t → (t.err ≠ s.err ∨ t.errCause ≠ s.errCause) →
    nextAction s = .reset ∨
    (nextAction s = .illegal ∧ t.err = true ∧ (s.errCause = .noError → t.errCause = .illegalCmd)) ∨
    (∃ x, nextAction s = .run (.sample x) ∧ s.blkIdx = s.cfg.blockMax ∧ t.err = true ∧
      (s.errCause = .noError → t.errCause = .blockOverflow))

/-- R163: the guard fires exactly when more than RATE samples, the fall's own among them, arrived since the
recorded fall; an accepted SAMPLE ages a recorded fall by one or, on a falling edge, starts a new one at one. -/
def Obligations.GuardMeasuresFallAge : Prop :=
  (∀ s t : State, exec .endBlock s = .next t → s.feValid = true →
    (t.feValid = false ↔ (s.cfg.rate : Int) + 1 ≤ fallAge s) ∧
    (t.feValid = true → fallAge t = fallAge s)) ∧
  ∀ (s t : State) (x : Int), s.blkIdx ≠ s.cfg.blockMax → exec (.sample x) s = .next t →
    t.feValid = true →
    (s.feValid = true ∧ fallAge t = fallAge s + 1) ∨
    (s.level = true ∧ x ≤ s.cfg.threshold ∧ fallAge t = 1)

/-! Status registers. -/

/-- R34: the fields of STATUS, as a number, and its value after reset; CH is below 32 in every state of the
invariant. -/
def Obligations.StatusWordFields : Prop :=
  (∀ s : State, Invariant s →
    (statusRegister s 0).toNat =
      s.synced.toNat + 2 * s.feValid.toNat + 4 * s.level.toNat + 8 * s.syncReq.toNat + 16 * s.ch +
        65536 * s.err.toNat +
        131072 * match s.errCause with
          | .noError => 0
          | .illegalCmd => 1
          | .blockOverflow => 2) ∧
  statusRegister State.reset 0 = 0x00000000

/-- R33: the other status registers, and that 9 to 15 read 0. -/
def Obligations.StatusRegisterContents : Prop :=
  ∀ s : State, Invariant s →
    (statusRegister s 1).toInt = s.feOff ∧ (statusRegister s 2).toNat = s.blkIdx ∧
    (statusRegister s 3).toNat = s.cfg.rate ∧ (statusRegister s 4).toInt = s.cfg.threshold ∧
    (statusRegister s 5).toNat = (s.cfg.rate + 199) / 200 ∧
    (statusRegister s 6).toNat = s.cfg.axisMap.length ∧
    (∀ k, k < 8 →
      (statusRegister s 7).toNat / 16 ^ k % 16 = (s.cfg.axisMap.getD k 0).toNat ∧
      (statusRegister s 8).toNat / 16 ^ k % 16 = (s.cfg.axisMap.getD (8 + k) 0).toNat) ∧
    ∀ n : BitVec 4, 9 ≤ n.toNat → statusRegister s n = 0

/-- R33's reset column for this hardware. -/
def Obligations.StatusRegistersAfterReset : Prop :=
  statusRegister State.reset 0 = 0 ∧ statusRegister State.reset 1 = 0 ∧
  statusRegister State.reset 2 = 0 ∧ (statusRegister State.reset 3).toNat = Config.hardware.rate ∧
  statusRegister State.reset 4 = 0x00003A98 ∧
  (statusRegister State.reset 5).toNat = (Config.hardware.rate + 199) / 200 ∧ statusRegister State.reset 6 = 4 ∧
  statusRegister State.reset 7 = 0x00003210 ∧ statusRegister State.reset 8 = 0

/-- R192: the status port exposes every state element: states of the invariant with equal registers 0, 1 and 2
agree in all nine elements of R20. -/
def Obligations.StatusPortExposesState : Prop :=
  ∀ s t : State, Invariant s → Invariant t →
    statusRegister s 0 = statusRegister t 0 → statusRegister s 1 = statusRegister t 1 →
    statusRegister s 2 = statusRegister t 2 →
    s.level = t.level ∧ s.feValid = t.feValid ∧ s.feOff = t.feOff ∧ s.synced = t.synced ∧
    s.ch = t.ch ∧ s.blkIdx = t.blkIdx ∧ s.syncReq = t.syncReq ∧ s.err = t.err ∧
    s.errCause = t.errCause

/-! Invariants. -/

/-- R42 at reset, for every configuration. -/
def Obligations.InvariantAfterReset : Prop :=
  (∀ c : Config, Invariant (State.resetFor c)) ∧ Invariant State.reset

/-- R42: every step keeps the seven items (and R25's flag at a block's start), from every state that has them. -/
def Obligations.StepKeepsInvariants : Prop :=
  ∀ s t : State, Invariant s → step s = .next t → Invariant t

/-- Under the invariant every numeric element fits its register, and END_BLOCK's transient offset too (R44). -/
def Obligations.RegistersFitTheirWidths : Prop :=
  ∀ s : State, Invariant s →
    -(2 ^ 25 : Int) ≤ s.feOff - s.blkIdx ∧ -(2 ^ 25 : Int) ≤ s.feOff ∧ s.feOff < 2 ^ 24 ∧
    s.blkIdx ≤ 2 ^ 24 ∧ s.ch ≤ 16

/-- R132, R124: every width a rising edge forwards lies in 1..RATE + BLOCK_MAX - 1. -/
def Obligations.ForwardedWidthRange : Prop :=
  ∀ s : State, Invariant s → s.feValid = true → s.blkIdx ≠ s.cfg.blockMax →
    1 ≤ (s.blkIdx : Int) - s.feOff ∧
    (s.blkIdx : Int) - s.feOff ≤ (s.cfg.rate : Int) + s.cfg.blockMax - 1 ∧
    ((s.cfg.rate : Int) < (s.blkIdx : Int) - s.feOff →
      (markerWidth s.cfg : Int) ≤ (s.blkIdx : Int) - s.feOff)

/-- Every WRITE a step emits from a state of the invariant is on the axis of its channel, with the unclamped value
of the measured width, which lies in -178..1096 and which the reader recovers exactly (R77, R81, R148, R149). -/
def Obligations.WrittenValuesInRange : Prop :=
  ∀ (s t : State) (axis : BitVec 4) (value : BitVec 16),
    Invariant s → step s = .next t → t.evtOut = some (.write axis value) →
    s.cfg.axisMap[s.ch]? = some axis ∧
    valueOfWord (eventWord s.cfg (.write axis value)) = mapValue s.cfg (s.blkIdx - s.feOff) ∧
    -178 ≤ mapValue s.cfg (s.blkIdx - s.feOff) ∧ mapValue s.cfg (s.blkIdx - s.feOff) ≤ 1096

/-- R57: DECLARE comes first, and every SYNC directly follows a WRITE of its block; every step keeps this. -/
def Obligations.StepKeepsEventOrder : Prop :=
  (∀ c : Config, EventsOrdered (State.resetFor c).events) ∧
  ∀ s t : State, Invariant s → EventsOrdered s.events → step s = .next t → EventsOrdered t.events

/-! Runs. -/

/-- R83: the words of `FEED v0, ..., v(n-1)` decode to the n SAMPLE commands in order and then END_BLOCK, with no
operands to END_BLOCK alone; presented one a cycle, they run exactly those commands. The two runs differ in the event port alone, which shows the last
cycle's event. -/
def Obligations.FeedRunsItsBlock : Prop :=
  ∀ (vs : List Int) (s : State), (∀ v ∈ vs, sampleInRange v) →
    (expandLine (.feed vs)).map decode =
      vs.map (fun v => Decoded.command (.sample v)) ++ [.command .endBlock] ∧
    ∃ t u, runWords (expandLine (.feed vs)) s = .next t ∧
      execAll (vs.map Instr.sample ++ [.endBlock]) s = .next u ∧
      t = { u with evtOut := t.evtOut }

/-- R84: `SAMPLES v, n` is `n` words of `SAMPLE v`, `LOW n` is `n` words of `SAMPLE 0` and `HIGH n` of
`SAMPLE 20000`; they give a low and a high level exactly when 0 <= THRESHOLD <= 19999, as this hardware's is. -/
def Obligations.PseudoSampleExpansions : Prop :=
  (∀ (v : Int) (n : Nat), sampleInRange v →
    (expandLine (.samples v n)).length = n ∧
    ∀ w ∈ expandLine (.samples v n), decode w = .command (.sample v)) ∧
  (∀ n : Nat, expandLine (.low n) = expandLine (.samples 0 n) ∧
    expandLine (.high n) = expandLine (.samples 20000 n) ∧
    (∀ w ∈ expandLine (.low n), w = 0x00000000) ∧ ∀ w ∈ expandLine (.high n), w = 0x00004E20) ∧
  (∀ c : Config, (sampleLevel c 0 = false ∧ sampleLevel c 20000 = true) ↔
    0 ≤ c.threshold ∧ c.threshold ≤ 19999) ∧
  sampleLevel Config.hardware 0 = false ∧ sampleLevel Config.hardware 20000 = true

/-- A block with every sample at or below THRESHOLD emits no WRITE, and no SYNC either where none was
requested before it; no rising edge occurs, so the frame state changes only by sync loss (R105, 95 S1). -/
def Obligations.LowBlockIsSilent : Prop :=
  ∀ (vs : List Int) (s : State), (∀ v ∈ vs, v ≤ s.cfg.threshold) →
    ∃ t, execAll (vs.map Instr.sample ++ [.endBlock]) s = .next t ∧
      writesOf t.events = writesOf s.events ∧ (s.syncReq = false → t.events = s.events) ∧
      ((t.synced = s.synced ∧ t.ch = s.ch) ∨ (t.synced = false ∧ t.ch = 0))

/-- The synthetic frame of 95 S2: from a high line, in any frame state, a gap and then at most NCH channel
pulses in one block give exactly one WRITE a pulse, in channel order, with the mapped values, and one SYNC if
there was a pulse. -/
def Obligations.SyntheticFrameDecodes : Prop :=
  ∀ (s : State) (low high : Int) (g : Nat) (ws : List Nat),
    s.level = true → s.syncReq = false →
    sampleInRange low → sampleInRange high → low ≤ s.cfg.threshold → s.cfg.threshold < high →
    markerWidth s.cfg ≤ g → (∀ w ∈ ws, 1 ≤ w ∧ w < markerWidth s.cfg) →
    ws.length ≤ nch s.cfg →
    s.blkIdx + (frameSamples low high g ws).length ≤ s.cfg.blockMax →
    ∃ t, runWords (expandLine (.feed (frameSamples low high g ws))) s = .next t ∧
      t.events = s.events ++ frameWrites s.cfg 0 ws ++ (if ws = [] then [] else [.sync]) ∧
      t.err = s.err ∧ t.level = true ∧ t.blkIdx = 0 ∧ (ws ≠ [] → t.synced = true ∧ t.ch = ws.length)

/-- R131: two command streams with the same samples, cut into blocks differently, end in the same level, frame
state, age of the recorded fall and WRITE events, where no SAMPLE is refused and the guard is silent. -/
def Obligations.WidthsDoNotDependOnCuts : Prop :=
  ∀ (cs ds : List Instr) (s : State), samplesOf cs = samplesOf ds → Quiet cs s → Quiet ds s →
    ∃ t u, execAll cs s = .next t ∧ execAll ds s = .next u ∧ CutEquivalent t u
end

