-- ==== Sys2Proof/Laws/Codec.lean ====
section
/-!
SUPPORT. The fields of command and event words as numbers, and 16-bit conversion.
-/
namespace Sys2Proof

theorem opField_toNat (w : Word) : (opField w).toNat = w.toNat / 2 ^ 30 := by
  simp only [opField, BitVec.extractLsb'_toNat, Nat.shiftRight_eq_div_pow]
  have := w.isLt
  omega

theorem reservedField_toNat (w : Word) : (reservedField w).toNat = w.toNat / 2 ^ 16 % 2 ^ 14 := by
  simp only [reservedField, BitVec.extractLsb'_toNat, Nat.shiftRight_eq_div_pow]

theorem payloadField_toNat (w : Word) : (payloadField w).toNat = w.toNat % 2 ^ 30 := by
  simp [payloadField, BitVec.extractLsb'_toNat]

theorem sampleField_toNat (w : Word) : (sampleField w).toNat = w.toNat % 2 ^ 16 := by
  simp [sampleField, BitVec.extractLsb'_toNat]

/-- A SAMPLE word is a word below `2 ^ 16`. -/
theorem sampleForm_iff (w : Word) : (opField w = 0b00#2 ∧ reservedField w = 0) ↔ w.toNat < 2 ^ 16 := by
  rw [← BitVec.toNat_inj, ← BitVec.toNat_inj, opField_toNat, reservedField_toNat]
  have := w.isLt
  simp
  omega

/-- An END_BLOCK word is `0x40000000`. -/
theorem endBlockForm_iff (w : Word) :
    (opField w = 0b01#2 ∧ payloadField w = 0) ↔ w.toNat = 0x40000000 := by
  rw [← BitVec.toNat_inj, ← BitVec.toNat_inj, opField_toNat, payloadField_toNat]
  have := w.isLt
  simp
  omega

/-- Everything Decode can answer, by the number of the word. -/
theorem decode_eq (w : Word) :
    decode w =
      if w.toNat < 2 ^ 16 then .command (.sample (sext16 (sampleField w)))
      else if w.toNat = 0x40000000 then .command .endBlock
      else .illegal (illegalReason w) := by
  simp only [decode, sampleForm_iff, endBlockForm_iff]

theorem sext16_enc16 {x : Int} (h : sampleInRange x) : sext16 (enc16 x) = x := by
  obtain ⟨h1, h2⟩ := h
  simp only [sext16, enc16, BitVec.toInt_ofInt]
  exact Int.bmod_eq_of_le (by omega) (by omega)

theorem enc16_sext16 (v : BitVec 16) : enc16 (sext16 v) = v := BitVec.ofInt_toInt

theorem sext16_inRange (v : BitVec 16) : sampleInRange (sext16 v) := by
  have h1 := BitVec.le_toInt v
  have h2 := BitVec.toInt_lt (x := v)
  simp only [sampleInRange, sext16]
  omega

theorem encode_sample_toNat (x : Int) : (encode (.sample x)).toNat = (enc16 x).toNat := by
  change (0b00#2 ++ 0#14 ++ enc16 x).toNat = _
  rw [BitVec.toNat_append, BitVec.toNat_append]
  simp

theorem encode_endBlock_toNat : (encode .endBlock).toNat = 0x40000000 := by decide

theorem sampleField_encode (x : Int) : sampleField (encode (.sample x)) = enc16 x := by
  apply BitVec.eq_of_toNat_eq
  rw [sampleField_toNat, encode_sample_toNat]
  exact Nat.mod_eq_of_lt (enc16 x).isLt

end Sys2Proof
end

