-- ==== Sys2Proof/Laws/State.lean ====
section
/-!
SUPPORT. What each shared operation leaves in each field of State, one lemma a field.
-/
namespace Sys2Proof.Machine

/-! `emit` -/

@[simp] theorem emit_level (e : Event) (s : State) : (emit e s).level = s.level := rfl
@[simp] theorem emit_feValid (e : Event) (s : State) : (emit e s).feValid = s.feValid := rfl
@[simp] theorem emit_feOff (e : Event) (s : State) : (emit e s).feOff = s.feOff := rfl
@[simp] theorem emit_synced (e : Event) (s : State) : (emit e s).synced = s.synced := rfl
@[simp] theorem emit_ch (e : Event) (s : State) : (emit e s).ch = s.ch := rfl
@[simp] theorem emit_blkIdx (e : Event) (s : State) : (emit e s).blkIdx = s.blkIdx := rfl
@[simp] theorem emit_syncReq (e : Event) (s : State) : (emit e s).syncReq = s.syncReq := rfl
@[simp] theorem emit_err (e : Event) (s : State) : (emit e s).err = s.err := rfl
@[simp] theorem emit_errCause (e : Event) (s : State) : (emit e s).errCause = s.errCause := rfl
@[simp] theorem emit_cfg (e : Event) (s : State) : (emit e s).cfg = s.cfg := rfl
@[simp] theorem emit_inputs (e : Event) (s : State) : (emit e s).inputs = s.inputs := rfl
@[simp] theorem emit_evtOut (e : Event) (s : State) : (emit e s).evtOut = some e := rfl
@[simp] theorem emit_events (e : Event) (s : State) : (emit e s).events = s.events ++ [e] := rfl

/-! `raiseError` -/

@[simp] theorem raiseError_level (c : ErrCause) (s : State) : (raiseError c s).level = s.level := rfl
@[simp] theorem raiseError_feValid (c : ErrCause) (s : State) : (raiseError c s).feValid = s.feValid := rfl
@[simp] theorem raiseError_feOff (c : ErrCause) (s : State) : (raiseError c s).feOff = s.feOff := rfl
@[simp] theorem raiseError_synced (c : ErrCause) (s : State) : (raiseError c s).synced = s.synced := rfl
@[simp] theorem raiseError_ch (c : ErrCause) (s : State) : (raiseError c s).ch = s.ch := rfl
@[simp] theorem raiseError_blkIdx (c : ErrCause) (s : State) : (raiseError c s).blkIdx = s.blkIdx := rfl
@[simp] theorem raiseError_syncReq (c : ErrCause) (s : State) : (raiseError c s).syncReq = s.syncReq := rfl
@[simp] theorem raiseError_err (c : ErrCause) (s : State) : (raiseError c s).err = true := rfl
@[simp] theorem raiseError_errCause (c : ErrCause) (s : State) : (raiseError c s).errCause = keepFirstCause s.errCause c := rfl
@[simp] theorem raiseError_cfg (c : ErrCause) (s : State) : (raiseError c s).cfg = s.cfg := rfl
@[simp] theorem raiseError_inputs (c : ErrCause) (s : State) : (raiseError c s).inputs = s.inputs := rfl
@[simp] theorem raiseError_evtOut (c : ErrCause) (s : State) : (raiseError c s).evtOut = s.evtOut := rfl
@[simp] theorem raiseError_events (c : ErrCause) (s : State) : (raiseError c s).events = s.events := rfl

/-! `performReset` -/

@[simp] theorem performReset_level (s : State) : (performReset s).level = false := rfl
@[simp] theorem performReset_feValid (s : State) : (performReset s).feValid = false := rfl
@[simp] theorem performReset_feOff (s : State) : (performReset s).feOff = 0 := rfl
@[simp] theorem performReset_synced (s : State) : (performReset s).synced = false := rfl
@[simp] theorem performReset_ch (s : State) : (performReset s).ch = 0 := rfl
@[simp] theorem performReset_blkIdx (s : State) : (performReset s).blkIdx = 0 := rfl
@[simp] theorem performReset_syncReq (s : State) : (performReset s).syncReq = false := rfl
@[simp] theorem performReset_err (s : State) : (performReset s).err = false := rfl
@[simp] theorem performReset_errCause (s : State) : (performReset s).errCause = .noError := rfl
@[simp] theorem performReset_cfg (s : State) : (performReset s).cfg = s.cfg := rfl
@[simp] theorem performReset_inputs (s : State) : (performReset s).inputs = s.inputs := rfl
@[simp] theorem performReset_evtOut (s : State) : (performReset s).evtOut = some .declare := rfl
@[simp] theorem performReset_events (s : State) : (performReset s).events = s.events ++ [.declare] := rfl

/-! `beginCycle` -/

@[simp] theorem beginCycle_level (s : State) : (beginCycle s).level = s.level := rfl
@[simp] theorem beginCycle_feValid (s : State) : (beginCycle s).feValid = s.feValid := rfl
@[simp] theorem beginCycle_feOff (s : State) : (beginCycle s).feOff = s.feOff := rfl
@[simp] theorem beginCycle_synced (s : State) : (beginCycle s).synced = s.synced := rfl
@[simp] theorem beginCycle_ch (s : State) : (beginCycle s).ch = s.ch := rfl
@[simp] theorem beginCycle_blkIdx (s : State) : (beginCycle s).blkIdx = s.blkIdx := rfl
@[simp] theorem beginCycle_syncReq (s : State) : (beginCycle s).syncReq = s.syncReq := rfl
@[simp] theorem beginCycle_err (s : State) : (beginCycle s).err = s.err := rfl
@[simp] theorem beginCycle_errCause (s : State) : (beginCycle s).errCause = s.errCause := rfl
@[simp] theorem beginCycle_cfg (s : State) : (beginCycle s).cfg = s.cfg := rfl
@[simp] theorem beginCycle_inputs (s : State) : (beginCycle s).inputs = s.inputs.tail := rfl
@[simp] theorem beginCycle_evtOut (s : State) : (beginCycle s).evtOut = none := rfl
@[simp] theorem beginCycle_events (s : State) : (beginCycle s).events = s.events := rfl

/-! `presentWords` -/

@[simp] theorem presentWords_level (ws : List Word) (s : State) : (presentWords ws s).level = s.level := rfl
@[simp] theorem presentWords_feValid (ws : List Word) (s : State) : (presentWords ws s).feValid = s.feValid := rfl
@[simp] theorem presentWords_feOff (ws : List Word) (s : State) : (presentWords ws s).feOff = s.feOff := rfl
@[simp] theorem presentWords_synced (ws : List Word) (s : State) : (presentWords ws s).synced = s.synced := rfl
@[simp] theorem presentWords_ch (ws : List Word) (s : State) : (presentWords ws s).ch = s.ch := rfl
@[simp] theorem presentWords_blkIdx (ws : List Word) (s : State) : (presentWords ws s).blkIdx = s.blkIdx := rfl
@[simp] theorem presentWords_syncReq (ws : List Word) (s : State) : (presentWords ws s).syncReq = s.syncReq := rfl
@[simp] theorem presentWords_err (ws : List Word) (s : State) : (presentWords ws s).err = s.err := rfl
@[simp] theorem presentWords_errCause (ws : List Word) (s : State) : (presentWords ws s).errCause = s.errCause := rfl
@[simp] theorem presentWords_cfg (ws : List Word) (s : State) : (presentWords ws s).cfg = s.cfg := rfl
@[simp] theorem presentWords_inputs (ws : List Word) (s : State) : (presentWords ws s).inputs = ws.map commandCycle ++ s.inputs := rfl
@[simp] theorem presentWords_evtOut (ws : List Word) (s : State) : (presentWords ws s).evtOut = s.evtOut := rfl
@[simp] theorem presentWords_events (ws : List Word) (s : State) : (presentWords ws s).events = s.events := rfl

/-! `captureFall` -/

@[simp] theorem captureFall_level (s : State) : (captureFall s).level = s.level := rfl
@[simp] theorem captureFall_feValid (s : State) : (captureFall s).feValid = true := rfl
@[simp] theorem captureFall_feOff (s : State) : (captureFall s).feOff = s.blkIdx := rfl
@[simp] theorem captureFall_synced (s : State) : (captureFall s).synced = s.synced := rfl
@[simp] theorem captureFall_ch (s : State) : (captureFall s).ch = s.ch := rfl
@[simp] theorem captureFall_blkIdx (s : State) : (captureFall s).blkIdx = s.blkIdx := rfl
@[simp] theorem captureFall_syncReq (s : State) : (captureFall s).syncReq = s.syncReq := rfl
@[simp] theorem captureFall_err (s : State) : (captureFall s).err = s.err := rfl
@[simp] theorem captureFall_errCause (s : State) : (captureFall s).errCause = s.errCause := rfl
@[simp] theorem captureFall_cfg (s : State) : (captureFall s).cfg = s.cfg := rfl
@[simp] theorem captureFall_inputs (s : State) : (captureFall s).inputs = s.inputs := rfl
@[simp] theorem captureFall_evtOut (s : State) : (captureFall s).evtOut = s.evtOut := rfl
@[simp] theorem captureFall_events (s : State) : (captureFall s).events = s.events := rfl

/-! `advanceIndex` -/

@[simp] theorem advanceIndex_level (s : State) : (advanceIndex s).level = s.level := rfl
@[simp] theorem advanceIndex_feValid (s : State) : (advanceIndex s).feValid = s.feValid := rfl
@[simp] theorem advanceIndex_feOff (s : State) : (advanceIndex s).feOff = s.feOff := rfl
@[simp] theorem advanceIndex_synced (s : State) : (advanceIndex s).synced = s.synced := rfl
@[simp] theorem advanceIndex_ch (s : State) : (advanceIndex s).ch = s.ch := rfl
@[simp] theorem advanceIndex_blkIdx (s : State) : (advanceIndex s).blkIdx = s.blkIdx + 1 := rfl
@[simp] theorem advanceIndex_syncReq (s : State) : (advanceIndex s).syncReq = s.syncReq := rfl
@[simp] theorem advanceIndex_err (s : State) : (advanceIndex s).err = s.err := rfl
@[simp] theorem advanceIndex_errCause (s : State) : (advanceIndex s).errCause = s.errCause := rfl
@[simp] theorem advanceIndex_cfg (s : State) : (advanceIndex s).cfg = s.cfg := rfl
@[simp] theorem advanceIndex_inputs (s : State) : (advanceIndex s).inputs = s.inputs := rfl
@[simp] theorem advanceIndex_evtOut (s : State) : (advanceIndex s).evtOut = s.evtOut := rfl
@[simp] theorem advanceIndex_events (s : State) : (advanceIndex s).events = s.events := rfl

/-! `clearIndex` -/

@[simp] theorem clearIndex_level (s : State) : (clearIndex s).level = s.level := rfl
@[simp] theorem clearIndex_feValid (s : State) : (clearIndex s).feValid = s.feValid := rfl
@[simp] theorem clearIndex_feOff (s : State) : (clearIndex s).feOff = s.feOff := rfl
@[simp] theorem clearIndex_synced (s : State) : (clearIndex s).synced = s.synced := rfl
@[simp] theorem clearIndex_ch (s : State) : (clearIndex s).ch = s.ch := rfl
@[simp] theorem clearIndex_blkIdx (s : State) : (clearIndex s).blkIdx = 0 := rfl
@[simp] theorem clearIndex_syncReq (s : State) : (clearIndex s).syncReq = s.syncReq := rfl
@[simp] theorem clearIndex_err (s : State) : (clearIndex s).err = s.err := rfl
@[simp] theorem clearIndex_errCause (s : State) : (clearIndex s).errCause = s.errCause := rfl
@[simp] theorem clearIndex_cfg (s : State) : (clearIndex s).cfg = s.cfg := rfl
@[simp] theorem clearIndex_inputs (s : State) : (clearIndex s).inputs = s.inputs := rfl
@[simp] theorem clearIndex_evtOut (s : State) : (clearIndex s).evtOut = s.evtOut := rfl
@[simp] theorem clearIndex_events (s : State) : (clearIndex s).events = s.events := rfl

/-! `flushSync`: SYNC exactly when requested, the flag then clear (R127) -/

@[simp] theorem flushSync_level (s : State) : (flushSync s).level = s.level := by
  unfold flushSync; split <;> rfl
@[simp] theorem flushSync_feValid (s : State) : (flushSync s).feValid = s.feValid := by
  unfold flushSync; split <;> rfl
@[simp] theorem flushSync_feOff (s : State) : (flushSync s).feOff = s.feOff := by
  unfold flushSync; split <;> rfl
@[simp] theorem flushSync_synced (s : State) : (flushSync s).synced = s.synced := by
  unfold flushSync; split <;> rfl
@[simp] theorem flushSync_ch (s : State) : (flushSync s).ch = s.ch := by
  unfold flushSync; split <;> rfl
@[simp] theorem flushSync_blkIdx (s : State) : (flushSync s).blkIdx = s.blkIdx := by
  unfold flushSync; split <;> rfl
@[simp] theorem flushSync_err (s : State) : (flushSync s).err = s.err := by
  unfold flushSync; split <;> rfl
@[simp] theorem flushSync_errCause (s : State) : (flushSync s).errCause = s.errCause := by
  unfold flushSync; split <;> rfl
@[simp] theorem flushSync_cfg (s : State) : (flushSync s).cfg = s.cfg := by
  unfold flushSync; split <;> rfl
@[simp] theorem flushSync_inputs (s : State) : (flushSync s).inputs = s.inputs := by
  unfold flushSync; split <;> rfl
@[simp] theorem flushSync_syncReq (s : State) : (flushSync s).syncReq = false := rfl
theorem flushSync_events (s : State) :
    (flushSync s).events = if s.syncReq then s.events ++ [.sync] else s.events := by
  unfold flushSync; split <;> rfl
theorem flushSync_evtOut (s : State) :
    (flushSync s).evtOut = if s.syncReq then some .sync else s.evtOut := by
  unfold flushSync; split <;> rfl

/-! `normaliseOffset` (R128) -/

@[simp] theorem normaliseOffset_level (s : State) : (normaliseOffset s).level = s.level := by
  unfold normaliseOffset; split <;> rfl
@[simp] theorem normaliseOffset_feValid (s : State) : (normaliseOffset s).feValid = s.feValid := by
  unfold normaliseOffset; split <;> rfl
@[simp] theorem normaliseOffset_synced (s : State) : (normaliseOffset s).synced = s.synced := by
  unfold normaliseOffset; split <;> rfl
@[simp] theorem normaliseOffset_ch (s : State) : (normaliseOffset s).ch = s.ch := by
  unfold normaliseOffset; split <;> rfl
@[simp] theorem normaliseOffset_blkIdx (s : State) : (normaliseOffset s).blkIdx = s.blkIdx := by
  unfold normaliseOffset; split <;> rfl
@[simp] theorem normaliseOffset_syncReq (s : State) : (normaliseOffset s).syncReq = s.syncReq := by
  unfold normaliseOffset; split <;> rfl
@[simp] theorem normaliseOffset_err (s : State) : (normaliseOffset s).err = s.err := by
  unfold normaliseOffset; split <;> rfl
@[simp] theorem normaliseOffset_errCause (s : State) : (normaliseOffset s).errCause = s.errCause := by
  unfold normaliseOffset; split <;> rfl
@[simp] theorem normaliseOffset_cfg (s : State) : (normaliseOffset s).cfg = s.cfg := by
  unfold normaliseOffset; split <;> rfl
@[simp] theorem normaliseOffset_inputs (s : State) : (normaliseOffset s).inputs = s.inputs := by
  unfold normaliseOffset; split <;> rfl
@[simp] theorem normaliseOffset_evtOut (s : State) : (normaliseOffset s).evtOut = s.evtOut := by
  unfold normaliseOffset; split <;> rfl
@[simp] theorem normaliseOffset_events (s : State) : (normaliseOffset s).events = s.events := by
  unfold normaliseOffset; split <;> rfl
theorem normaliseOffset_feOff (s : State) :
    (normaliseOffset s).feOff = if s.feValid then s.feOff - s.blkIdx else s.feOff := by
  unfold normaliseOffset; split <;> rfl

/-! `syncLossGuard`: it writes the frame state and the offset alone (R162) -/

@[simp] theorem syncLossGuard_level (s : State) : (syncLossGuard s).level = s.level := by
  unfold syncLossGuard; split <;> rfl
@[simp] theorem syncLossGuard_blkIdx (s : State) : (syncLossGuard s).blkIdx = s.blkIdx := by
  unfold syncLossGuard; split <;> rfl
@[simp] theorem syncLossGuard_syncReq (s : State) : (syncLossGuard s).syncReq = s.syncReq := by
  unfold syncLossGuard; split <;> rfl
@[simp] theorem syncLossGuard_err (s : State) : (syncLossGuard s).err = s.err := by
  unfold syncLossGuard; split <;> rfl
@[simp] theorem syncLossGuard_errCause (s : State) : (syncLossGuard s).errCause = s.errCause := by
  unfold syncLossGuard; split <;> rfl
@[simp] theorem syncLossGuard_cfg (s : State) : (syncLossGuard s).cfg = s.cfg := by
  unfold syncLossGuard; split <;> rfl
@[simp] theorem syncLossGuard_inputs (s : State) : (syncLossGuard s).inputs = s.inputs := by
  unfold syncLossGuard; split <;> rfl
@[simp] theorem syncLossGuard_evtOut (s : State) : (syncLossGuard s).evtOut = s.evtOut := by
  unfold syncLossGuard; split <;> rfl
@[simp] theorem syncLossGuard_events (s : State) : (syncLossGuard s).events = s.events := by
  unfold syncLossGuard; split <;> rfl

/-! `frameStep`: it writes the frame state, the request and the event outputs alone (R141) -/

@[simp] theorem frameStep_level (w : Int) (s : State) : (frameStep w s).level = s.level := by
  unfold frameStep; split
  · rfl
  · split <;> rfl
@[simp] theorem frameStep_feValid (w : Int) (s : State) : (frameStep w s).feValid = s.feValid := by
  unfold frameStep; split
  · rfl
  · split <;> rfl
@[simp] theorem frameStep_feOff (w : Int) (s : State) : (frameStep w s).feOff = s.feOff := by
  unfold frameStep; split
  · rfl
  · split <;> rfl
@[simp] theorem frameStep_blkIdx (w : Int) (s : State) : (frameStep w s).blkIdx = s.blkIdx := by
  unfold frameStep; split
  · rfl
  · split <;> rfl
@[simp] theorem frameStep_err (w : Int) (s : State) : (frameStep w s).err = s.err := by
  unfold frameStep; split
  · rfl
  · split <;> rfl
@[simp] theorem frameStep_errCause (w : Int) (s : State) : (frameStep w s).errCause = s.errCause := by
  unfold frameStep; split
  · rfl
  · split <;> rfl
@[simp] theorem frameStep_cfg (w : Int) (s : State) : (frameStep w s).cfg = s.cfg := by
  unfold frameStep; split
  · rfl
  · split <;> rfl
@[simp] theorem frameStep_inputs (w : Int) (s : State) : (frameStep w s).inputs = s.inputs := by
  unfold frameStep; split
  · rfl
  · split <;> rfl

/-! `measureRise` and `onEdge` -/

@[simp] theorem measureRise_level (s : State) : (measureRise s).level = s.level := by
  unfold measureRise; split <;> simp
@[simp] theorem measureRise_feValid (s : State) : (measureRise s).feValid = s.feValid := by
  unfold measureRise; split <;> simp
@[simp] theorem measureRise_feOff (s : State) : (measureRise s).feOff = s.feOff := by
  unfold measureRise; split <;> simp
@[simp] theorem measureRise_blkIdx (s : State) : (measureRise s).blkIdx = s.blkIdx := by
  unfold measureRise; split <;> simp
@[simp] theorem measureRise_err (s : State) : (measureRise s).err = s.err := by
  unfold measureRise; split <;> simp
@[simp] theorem measureRise_errCause (s : State) : (measureRise s).errCause = s.errCause := by
  unfold measureRise; split <;> simp
@[simp] theorem measureRise_cfg (s : State) : (measureRise s).cfg = s.cfg := by
  unfold measureRise; split <;> simp
@[simp] theorem measureRise_inputs (s : State) : (measureRise s).inputs = s.inputs := by
  unfold measureRise; split <;> simp
@[simp] theorem onEdge_level (t : Edge) (s : State) : (onEdge t s).level = s.level := by
  cases t <;> simp [onEdge]
@[simp] theorem onEdge_blkIdx (t : Edge) (s : State) : (onEdge t s).blkIdx = s.blkIdx := by
  cases t <;> simp [onEdge]
@[simp] theorem onEdge_err (t : Edge) (s : State) : (onEdge t s).err = s.err := by
  cases t <;> simp [onEdge]
@[simp] theorem onEdge_errCause (t : Edge) (s : State) : (onEdge t s).errCause = s.errCause := by
  cases t <;> simp [onEdge]
@[simp] theorem onEdge_cfg (t : Edge) (s : State) : (onEdge t s).cfg = s.cfg := by
  cases t <;> simp [onEdge]
@[simp] theorem onEdge_inputs (t : Edge) (s : State) : (onEdge t s).inputs = s.inputs := by
  cases t <;> simp [onEdge]

end Sys2Proof.Machine
end

