-- ==== Sys2Proof/Laws/Commands.lean ====
section
/-!
SUPPORT. What each command and sub-operation can do, said once.
-/
namespace Sys2Proof.Machine

/-! Parameters. -/

theorem rate_pos (c : Config) : 1 ≤ c.rate := c.valid.1.1

theorem rate_le (c : Config) : c.rate ≤ 2 ^ 24 := c.valid.1.2

theorem nch_le (c : Config) : nch c ≤ 16 := c.valid.2.2.1.2

theorem nch_pos (c : Config) : 1 ≤ nch c := c.valid.2.2.1.1

theorem blockMax_pos (c : Config) : 1 ≤ c.blockMax := c.valid.2.2.2.1

theorem blockMax_le (c : Config) : c.blockMax ≤ 2 ^ 24 := c.valid.2.2.2.2

/-- A width is a gap exactly when it lasts 5 ms or more. -/
theorem isGap_iff (c : Config) (w : Int) : isGap c w = true ↔ (c.rate : Int) ≤ 200 * w := by
  rw [isGap, decide_eq_true_iff, markerWidth]
  omega

/-- A width is a gap exactly when it is at least MARKER_WIDTH. -/
theorem isGap_marker_iff (c : Config) (w : Int) : isGap c w = true ↔ (markerWidth c : Int) ≤ w := by
  rw [isGap, decide_eq_true_iff]

theorem isGap_false_iff (c : Config) (w : Int) : isGap c w = false ↔ 200 * w < (c.rate : Int) := by
  rw [← Bool.not_eq_true, isGap_iff]
  omega

/-! The edge detector. -/

@[simp] theorem sampleLevel_true_iff (c : Config) (x : Int) :
    sampleLevel c x = true ↔ c.threshold < x := by rw [sampleLevel, decide_eq_true_iff]

@[simp] theorem sampleLevel_false_iff (c : Config) (x : Int) :
    sampleLevel c x = false ↔ x ≤ c.threshold := by
  rw [← Bool.not_eq_true, sampleLevel_true_iff, Int.not_lt]

theorem sampleLevel_high {c : Config} {x : Int} (h : c.threshold < x) : sampleLevel c x = true :=
  (sampleLevel_true_iff c x).mpr h

theorem sampleLevel_low {c : Config} {x : Int} (h : x ≤ c.threshold) : sampleLevel c x = false :=
  (sampleLevel_false_iff c x).mpr h

/-! The frame decoder. -/

/-- Everything FrameStep can do. -/
theorem frameStep_cases (w : Int) (s : State) :
    (isGap s.cfg w = true ∧ frameStep w s = { s with synced := true, ch := 0 }) ∨
    (isGap s.cfg w = false ∧ s.synced = true ∧ s.ch < nch s.cfg ∧
      frameStep w s = emit (channelEvent s.cfg s.ch w) { s with ch := s.ch + 1, syncReq := true }) ∨
    (isGap s.cfg w = false ∧ (s.synced = false ∨ nch s.cfg ≤ s.ch) ∧ frameStep w s = s) := by
  unfold frameStep
  by_cases hg : isGap s.cfg w = true
  · exact .inl ⟨hg, if_pos hg⟩
  · have hg' := Bool.eq_false_iff.mpr hg
    by_cases hc : s.synced = true ∧ s.ch < nch s.cfg
    · exact .inr (.inl ⟨hg', hc.1, hc.2, by rw [if_neg hg, if_pos hc]⟩)
    · refine .inr (.inr ⟨hg', ?_, by rw [if_neg hg, if_neg hc]⟩)
      by_cases hs : s.synced = true
      · exact .inr (Nat.le_of_not_lt fun hlt => hc ⟨hs, hlt⟩)
      · exact .inl (Bool.eq_false_iff.mpr hs)

/-! Errors. -/

/-- An error always leaves a cause. -/
theorem keepFirstCause_ne {new : ErrCause} (h : new ≠ .noError) (old : ErrCause) :
    keepFirstCause old new ≠ .noError := by
  unfold keepFirstCause
  split
  · exact h
  · assumption

/-! SAMPLE. -/

theorem execSample_overflow {s : State} (h : s.blkIdx = s.cfg.blockMax) (x : Int) :
    execSample x s = .next (raiseError .blockOverflow s) := if_pos h

theorem execSample_accept {s : State} (h : s.blkIdx ≠ s.cfg.blockMax) (x : Int) :
    execSample x s = .next (acceptSample x s) := if_neg h

/-- Everything an accepted SAMPLE can do: equal levels, a falling edge, a rising edge that measures
nothing, a rising edge that measures a width. -/
theorem acceptSample_cases (x : Int) (s : State) :
    (s.level = sampleLevel s.cfg x ∧ acceptSample x s = { s with blkIdx := s.blkIdx + 1 }) ∨
    (s.level = true ∧ sampleLevel s.cfg x = false ∧
      acceptSample x s =
        { s with level := false, feValid := true, feOff := s.blkIdx, blkIdx := s.blkIdx + 1 }) ∨
    (s.level = false ∧ sampleLevel s.cfg x = true ∧ s.feValid = false ∧
      acceptSample x s = { s with level := true, blkIdx := s.blkIdx + 1 }) ∨
    (s.level = false ∧ sampleLevel s.cfg x = true ∧ s.feValid = true ∧
      acceptSample x s = advanceIndex (frameStep (s.blkIdx - s.feOff) { s with level := true })) := by
  obtain ⟨level, feValid, _⟩ := s
  unfold acceptSample
  generalize sampleLevel _ x = cur
  cases level <;> cases cur <;> cases feValid <;>
    simp [transition, onEdge, captureFall, measureRise, advanceIndex]

/-- LEVEL and BLK_IDX after an accepted SAMPLE, whatever its edge. -/
@[simp] theorem acceptSample_level (x : Int) (s : State) :
    (acceptSample x s).level = sampleLevel s.cfg x := by simp [acceptSample]

@[simp] theorem acceptSample_blkIdx (x : Int) (s : State) :
    (acceptSample x s).blkIdx = s.blkIdx + 1 := by simp [acceptSample]

@[simp] theorem acceptSample_err (x : Int) (s : State) : (acceptSample x s).err = s.err := by
  simp [acceptSample]

@[simp] theorem acceptSample_errCause (x : Int) (s : State) :
    (acceptSample x s).errCause = s.errCause := by simp [acceptSample]

@[simp] theorem acceptSample_cfg (x : Int) (s : State) : (acceptSample x s).cfg = s.cfg := by
  simp [acceptSample]

@[simp] theorem acceptSample_inputs (x : Int) (s : State) : (acceptSample x s).inputs = s.inputs := by
  simp [acceptSample]

/-! END_BLOCK. -/

/-- Whether the guard fires, on the offset before normalisation. -/
theorem guardFires_normalised (s : State) :
    guardFires (normaliseOffset s) = true ↔
      s.feValid = true ∧ s.feOff - s.blkIdx < -(s.cfg.rate : Int) := by
  cases h : s.feValid <;> simp [guardFires, normaliseOffset_feOff, h, lossWindow]

@[simp] theorem closeBlock_level (s : State) : (closeBlock s).level = s.level := by simp [closeBlock]

@[simp] theorem closeBlock_blkIdx (s : State) : (closeBlock s).blkIdx = 0 := by simp [closeBlock]

@[simp] theorem closeBlock_syncReq (s : State) : (closeBlock s).syncReq = false := by simp [closeBlock]

@[simp] theorem closeBlock_err (s : State) : (closeBlock s).err = s.err := by simp [closeBlock]

@[simp] theorem closeBlock_errCause (s : State) : (closeBlock s).errCause = s.errCause := by
  simp [closeBlock]

@[simp] theorem closeBlock_cfg (s : State) : (closeBlock s).cfg = s.cfg := by simp [closeBlock]

@[simp] theorem closeBlock_inputs (s : State) : (closeBlock s).inputs = s.inputs := by simp [closeBlock]

theorem closeBlock_events (s : State) :
    (closeBlock s).events = if s.syncReq then s.events ++ [.sync] else s.events := by
  simp [closeBlock, flushSync_events]

theorem closeBlock_evtOut (s : State) :
    (closeBlock s).evtOut = if s.syncReq then some .sync else s.evtOut := by
  simp [closeBlock, flushSync_evtOut]

/-- What END_BLOCK leaves of the frame state and the offset: cleared where the guard fires, else the offset
re-based. -/
theorem closeBlock_carry (s : State) :
    (s.feValid = true ∧ s.feOff - s.blkIdx < -(s.cfg.rate : Int) ∧
      (closeBlock s).synced = false ∧ (closeBlock s).ch = 0 ∧
      (closeBlock s).feValid = false ∧ (closeBlock s).feOff = 0) ∨
    ((s.feValid = true → -(s.cfg.rate : Int) ≤ s.feOff - s.blkIdx) ∧
      (closeBlock s).synced = s.synced ∧ (closeBlock s).ch = s.ch ∧
      (closeBlock s).feValid = s.feValid ∧
      (closeBlock s).feOff = if s.feValid then s.feOff - s.blkIdx else s.feOff) := by
  by_cases h : guardFires (normaliseOffset (flushSync s)) = true
  · have h' := (guardFires_normalised _).mp h
    simp only [flushSync_feValid, flushSync_feOff, flushSync_blkIdx, flushSync_cfg] at h'
    exact .inl ⟨h'.1, h'.2, by simp [closeBlock, syncLossGuard, h, clearIndex]⟩
  · have h' := h
    rw [guardFires_normalised] at h'
    simp only [flushSync_feValid, flushSync_feOff, flushSync_blkIdx, flushSync_cfg] at h'
    refine .inr ⟨fun hv => ?_, ?_⟩
    · by_contra hlt
      exact h' ⟨hv, by omega⟩
    · simp [closeBlock, syncLossGuard, h, clearIndex, normaliseOffset_feOff]

end Sys2Proof.Machine
end

