-- ==== Sys2Proof/Laws/PerInstr.lean ====
section
/-!
SUPPORT. The family TableRow: a command's word has its row's match bits under its row's mask.
-/
namespace Sys2Proof.Laws.TableRow

/-- The word of `i` agrees with the `match` and `mask` columns of spec/opcode_table.json. -/
def Statement (i : Instr) : Prop := encode i &&& tableMask i = tableMatch i

theorem sample (s : Int) : Statement (.sample s) := by
  have h := (enc16 s).isLt
  apply BitVec.eq_of_toNat_eq
  simp only [tableMask, tableMatch, BitVec.toNat_and, encode_sample_toNat]
  generalize (enc16 s).toNat = n at h
  change n &&& 0xFFFF0000 = 0
  have hn : n = n % 2 ^ 16 := (Nat.mod_eq_of_lt h).symm
  apply Nat.eq_of_testBit_eq
  intro k
  rw [hn, Nat.testBit_and, Nat.testBit_mod_two_pow, Nat.zero_testBit]
  by_cases hk : k < 16
  · have : Nat.testBit 0xFFFF0000 k = false := by interval_cases k <;> decide
    simp [this]
  · simp [hk]

theorem endBlock : Statement .endBlock := by unfold Statement; decide

end Sys2Proof.Laws.TableRow
end

