-- ==== Sys2Proof/Laws/Step.lean ====
section
/-!
SUPPORT. What one step can do, said once, and how presented words come to run.
-/
namespace Sys2Proof.Machine

theorem exec_sample (x : Int) (s : State) : exec (.sample x) s = execSample x s := rfl

theorem exec_endBlock (s : State) : exec .endBlock s = .next (closeBlock s) := rfl

/-- Everything a step can do: idle, reset, an illegal word, an overflowing SAMPLE, an accepted SAMPLE, the
close of a block. -/
theorem step_cases {s t : State} (h : step s = .next t) :
    (nextAction s = .idle ∧ t = beginCycle s) ∨
    (nextAction s = .reset ∧ t = performReset (beginCycle s)) ∨
    (nextAction s = .illegal ∧ t = raiseError .illegalCmd (beginCycle s)) ∨
    (∃ x, nextAction s = .run (.sample x) ∧ s.blkIdx = s.cfg.blockMax ∧
      t = raiseError .blockOverflow (beginCycle s)) ∨
    (∃ x, nextAction s = .run (.sample x) ∧ s.blkIdx ≠ s.cfg.blockMax ∧
      t = acceptSample x (beginCycle s)) ∨
    (nextAction s = .run .endBlock ∧ t = closeBlock (beginCycle s)) := by
  unfold step at h
  cases ha : nextAction s with
  | idle => rw [ha] at h; cases h; exact .inl ⟨rfl, rfl⟩
  | reset => rw [ha] at h; cases h; exact .inr (.inl ⟨rfl, rfl⟩)
  | illegal => rw [ha] at h; cases h; exact .inr (.inr (.inl ⟨rfl, rfl⟩))
  | run i =>
    rw [ha] at h
    cases i with
    | endBlock => cases h; exact .inr (.inr (.inr (.inr (.inr ⟨rfl, rfl⟩))))
    | sample x =>
      simp only [exec_sample] at h
      by_cases hb : s.blkIdx = s.cfg.blockMax
      · rw [execSample_overflow (by simpa using hb)] at h
        cases h
        exact .inr (.inr (.inr (.inl ⟨x, rfl, hb, rfl⟩)))
      · rw [execSample_accept (by simpa using hb)] at h
        cases h
        exact .inr (.inr (.inr (.inr (.inl ⟨x, rfl, hb, rfl⟩))))

/-- The next cycle's action where the command port presents `w` and `rst` is low. -/
theorem nextAction_command {s : State} {w : Word} {a : BitVec 4} {rest : List PortCycle}
    (h : s.inputs = { rst := false, cmdValid := true, cmd := w, statAddr := a } :: rest) :
    nextAction s = actionOfWord w := by
  simp [nextAction, h, actionOfCycle]

theorem nextAction_presentWords (w : Word) (ws : List Word) (s : State) :
    nextAction (presentWords (w :: ws) s) = actionOfWord w := rfl

/-- Taking the cycle of the first presented word leaves the others presented. -/
theorem beginCycle_presentWords (w : Word) (ws : List Word) (s : State) :
    beginCycle (presentWords (w :: ws) s) = presentWords ws { s with evtOut := none } := rfl

/-- A run of one step more is the step and then the run. -/
theorem core_run_succ (M : Host.Core) {s t : M.State} (h : M.step s = .next t) (n : Nat) :
    M.run (n + 1) s = M.run n t := by simp [Host.Core.run, h]

theorem run_succ {s t : State} (h : step s = .next t) (n : Nat) :
    Sys2Proof.core.run (n + 1) s = Sys2Proof.core.run n t := core_run_succ Sys2Proof.core h n

end Sys2Proof.Machine
end

