-- ==== Sys2Proof/Laws/ValueMap.lean ====
section
/-!
SUPPORT. The rounding operations: what RoundNearest can answer, and how far a binary64 operation lies from the exact
result.
-/
namespace Sys2Proof.Machine

/-- Everything RoundNearest can answer: the floor, its successor, or the tie mode's choice of the two. -/
theorem roundNearest_cases (tie : TieMode) (n d : Int) (hd : 0 < d) :
    (2 * (n - d * (n / d)) < d ∧ 0 ≤ n - d * (n / d) ∧ roundNearest tie n d = n / d) ∨
    (d < 2 * (n - d * (n / d)) ∧ n - d * (n / d) < d ∧ roundNearest tie n d = n / d + 1) ∨
    (2 * (n - d * (n / d)) = d ∧
      roundNearest tie n d = match tie with
        | .halfEven => if n / d % 2 = 0 then n / d else n / d + 1
        | .halfAway => if 0 ≤ n / d then n / d + 1 else n / d
        | .referenceB64 => if n / d % 2 = 0 then n / d else n / d + 1) := by
  have e : n % d = n - d * (n / d) := Int.emod_def n d
  have h1 := Int.emod_nonneg n (b := d) (by omega)
  have h2 := Int.emod_lt_of_pos n hd
  unfold roundNearest
  simp only [e] at h1 h2 ⊢
  split
  · exact .inl ⟨by assumption, by omega, rfl⟩
  · split
    · exact .inr (.inl ⟨by assumption, h2, rfl⟩)
    · exact .inr (.inr ⟨by omega, rfl⟩)

/-- RoundNearest is off by half the denominator at most. -/
theorem roundNearest_error (tie : TieMode) (n d : Int) (hd : 0 < d) :
    2 * |n - d * roundNearest tie n d| ≤ d := by
  have h := roundNearest_cases tie n d hd
  generalize roundNearest tie n d = v at h
  generalize n / d = q at h
  have e1 : d * (q + 1) = d * q + d := by ring
  rcases h with ⟨a, b, rfl⟩ | ⟨a, b, rfl⟩ | ⟨a, h⟩
  · rw [abs_of_nonneg b]; omega
  · rw [abs_of_nonpos (by omega)]; omega
  · have hv : v = q ∨ v = q + 1 := by
      revert h; cases tie <;> intro h <;> simp only at h <;> split at h <;> simp [h]
    rcases hv with rfl | rfl
    · rw [abs_of_nonneg (by omega)]; omega
    · rw [abs_of_nonpos (by omega)]; omega

/-- The rational a binary64 value stands for. -/
def binary64Value (x : Binary64) : ℚ := (x.num : ℚ) / 2 ^ x.exp

theorem two_zpow_eq (k : Int) : (2 : ℚ) ^ k = 2 ^ k.toNat / 2 ^ (-k).toNat := by
  rcases le_total 0 k with h | h
  · have : (-k).toNat = 0 := by omega
    rw [this, pow_zero, div_one, ← zpow_natCast, Int.toNat_of_nonneg h]
  · have : k.toNat = 0 := by omega
    rw [this, pow_zero, ← zpow_natCast, Int.toNat_of_nonneg (by omega), zpow_neg, one_div, inv_inv]

theorem scaledBelow_iff (a d : Nat) (k : Int) :
    scaledBelow a d k = true ↔ (a : ℚ) * 2 ^ k < 2 ^ 52 * d := by
  unfold scaledBelow
  rw [decide_eq_true_iff, two_zpow_eq, ← mul_div_assoc, div_lt_iff₀ (by positivity)]
  exact ⟨fun h => by exact_mod_cast h, fun h => by exact_mod_cast h⟩

/-- The scale gives 53 significant bits, unless the value is subnormal. -/
theorem binary64Scale_spec (a d : Nat) (ha : 0 < a) :
    binary64Scale a d = 1074 ∨ (2 : ℚ) ^ 52 * d ≤ a * 2 ^ binary64Scale a d := by
  unfold binary64Scale
  simp only
  generalize hk : (52 - ((Nat.log2 a : Int) - (Nat.log2 d : Int))) = k
  by_cases hs : scaledBelow a d k = true
  · simp only [hs, if_true]
    rcases le_total 1074 (k + 1) with h | h
    · exact .inl (min_eq_left h)
    · right
      rw [min_eq_right h]
      have h1 : (2 : ℚ) ^ Nat.log2 a ≤ a := by exact_mod_cast Nat.log2_self_le (by omega)
      have h2 : (d : ℚ) ≤ 2 ^ (Nat.log2 d + 1) := by exact_mod_cast (Nat.lt_log2_self (n := d)).le
      calc (2 : ℚ) ^ 52 * d ≤ 2 ^ 52 * 2 ^ (Nat.log2 d + 1) := by gcongr
        _ = 2 ^ Nat.log2 a * 2 ^ (k + 1) := by
          rw [← zpow_natCast, ← zpow_natCast, ← zpow_natCast, ← zpow_add₀ (by norm_num),
            ← zpow_add₀ (by norm_num)]
          congr 1
          push_cast
          omega
        _ ≤ _ := by gcongr
  · have hs' := hs
    rw [scaledBelow_iff, not_lt] at hs'
    simp only [hs]
    rcases le_total 1074 k with h | h
    · left; simp [h]
    · right
      simp only [Bool.false_eq_true, if_false]
      rw [min_eq_right h]
      exact hs'

/-- A binary64 rounding is within a relative `2 ^ -53` (and an absolute error for the subnormal range) of the
exact quotient. -/
theorem binary64Round_error (n : Int) (d : Nat) (hd : 0 < d) :
    |binary64Value (binary64Round n d) - n / d| ≤ |(n : ℚ) / d| / 2 ^ 53 + 1 / 2 ^ 200 := by
  unfold binary64Round
  by_cases hn : n = 0
  · simp [hn, binary64Value]
  · simp only [hn, if_false]
    have hs := binary64Scale_spec n.natAbs d (by omega)
    generalize binary64Scale n.natAbs d = k at hs
    have hr := roundNearest_error .halfEven ((n.natAbs * 2 ^ k.toNat : Nat) : Int)
      ((d * 2 ^ (-k).toNat : Nat) : Int) (by positivity)
    generalize roundNearest .halfEven ((n.natAbs * 2 ^ k.toNat : Nat) : Int)
      ((d * 2 ^ (-k).toNat : Nat) : Int) = q at hr
    have hr' : (2 : ℚ) * |(n.natAbs : ℚ) * 2 ^ k.toNat - d * 2 ^ (-k).toNat * q| ≤ d * 2 ^ (-k).toNat := by
      have h0 := (Int.cast_le (R := ℚ)).mpr hr
      rw [Int.cast_mul, Int.cast_abs, Int.cast_sub, Int.cast_mul, Int.cast_natCast, Int.cast_natCast,
        Nat.cast_mul, Nat.cast_mul, Nat.cast_pow, Nat.cast_pow] at h0
      exact h0
    have hdq : (0 : ℚ) < d := by exact_mod_cast hd
    have e1 : binary64Value { num := n.sign * q * ((2 ^ (-k).toNat : Nat) : Int), exp := k.toNat } =
        n.sign * (q / 2 ^ k) := by
      rw [binary64Value, two_zpow_eq]
      push_cast
      field_simp
    have hsgn : (n : ℚ) = n.sign * n.natAbs := by
      have h0 := congrArg (Int.cast (R := ℚ)) (Int.sign_mul_natAbs n)
      rw [Int.cast_mul, Int.cast_natCast] at h0
      exact h0.symm
    have habs : |((n.sign : Int) : ℚ)| = 1 := by
      rcases Int.lt_trichotomy n 0 with h | h | h
      · rw [Int.sign_eq_neg_one_of_neg h]; norm_num
      · exact absurd h hn
      · rw [Int.sign_eq_one_of_pos h]; norm_num
    have e2 : (n.sign : ℚ) * (q / 2 ^ k) - n / d = n.sign * (q / 2 ^ k - n.natAbs / d) := by
      rw [show (n : ℚ) / d = n.sign * (n.natAbs / d) by rw [← mul_div_assoc, ← hsgn]]
      ring
    have e3 : |(n : ℚ) / d| = n.natAbs / d := by
      conv_lhs => rw [hsgn]
      rw [mul_div_assoc, abs_mul, habs, one_mul, abs_of_nonneg (by positivity)]
    rw [e1, e2, abs_mul, habs, one_mul, e3]
    have h2k : (0 : ℚ) < 2 ^ k := by positivity
    have hcore : |(q : ℚ) / 2 ^ k - n.natAbs / d| ≤ 1 / (2 * 2 ^ k) := by
      have e4 : (q : ℚ) / 2 ^ k - n.natAbs / d =
          -(((n.natAbs : ℚ) * 2 ^ k.toNat - d * 2 ^ (-k).toNat * q) / (d * 2 ^ k.toNat)) := by
        rw [two_zpow_eq]; field_simp; ring
      rw [e4, abs_neg, abs_div, abs_of_pos (show (0 : ℚ) < d * 2 ^ k.toNat by positivity),
        div_le_div_iff₀ (by positivity) (by positivity)]
      have e5 : (2 : ℚ) * 2 ^ k * 2 ^ (-k).toNat = 2 * 2 ^ k.toNat := by rw [two_zpow_eq]; field_simp
      refine le_of_mul_le_mul_right ?_ (show (0 : ℚ) < 2 ^ (-k).toNat by positivity)
      calc _ = |(n.natAbs : ℚ) * 2 ^ k.toNat - d * 2 ^ (-k).toNat * q| * (2 * 2 ^ k * 2 ^ (-k).toNat) := by ring
        _ = (2 * |(n.natAbs : ℚ) * 2 ^ k.toNat - d * 2 ^ (-k).toNat * q|) * 2 ^ k.toNat := by rw [e5]; ring
        _ ≤ (d * 2 ^ (-k).toNat) * 2 ^ k.toNat := by gcongr
        _ = _ := by ring
    refine hcore.trans ?_
    rcases hs with hs | hs
    · have hsub : (1 : ℚ) / (2 * 2 ^ k) ≤ 1 / 2 ^ 200 := by
        rw [hs, div_le_div_iff₀ (by positivity) (by positivity), one_mul, one_mul]
        have hp : (2 : ℚ) ^ (200 : ℤ) ≤ 2 ^ (1074 : ℤ) := zpow_le_zpow_right₀ (by norm_num) (by norm_num)
        have e : (2 : ℚ) ^ (200 : ℤ) = 2 ^ (200 : ℕ) := by exact_mod_cast zpow_natCast (2 : ℚ) 200
        rw [e] at hp
        have hpos : (0 : ℚ) < 2 ^ (1074 : ℤ) := by positivity
        generalize (2 : ℚ) ^ (1074 : ℤ) = z at *
        linarith
      have : (0 : ℚ) ≤ n.natAbs / d / 2 ^ 53 := by positivity
      linarith
    · have hnorm : (1 : ℚ) / (2 * 2 ^ k) ≤ n.natAbs / d / 2 ^ 53 := by
        rw [div_div, div_le_div_iff₀ (by positivity) (by positivity)]
        nlinarith
      have : (0 : ℚ) ≤ 1 / 2 ^ 200 := by positivity
      linarith

theorem binary64Sub_error (x y : Binary64) :
    |binary64Value (binary64Sub x y) - (binary64Value x - binary64Value y)| ≤
      |binary64Value x - binary64Value y| / 2 ^ 53 + 1 / 2 ^ 200 := by
  have h := binary64Round_error (x.num * 2 ^ y.exp - y.num * 2 ^ x.exp) (2 ^ (x.exp + y.exp)) (by positivity)
  have e : ((x.num * 2 ^ y.exp - y.num * 2 ^ x.exp : Int) : ℚ) / ((2 ^ (x.exp + y.exp) : Nat) : ℚ) =
      binary64Value x - binary64Value y := by
    unfold binary64Value; push_cast; rw [pow_add]; field_simp
  rw [e] at h
  exact h

theorem binary64Mul_error (x y : Binary64) :
    |binary64Value (binary64Mul x y) - binary64Value x * binary64Value y| ≤
      |binary64Value x * binary64Value y| / 2 ^ 53 + 1 / 2 ^ 200 := by
  have h := binary64Round_error (x.num * y.num) (2 ^ (x.exp + y.exp)) (by positivity)
  have e : ((x.num * y.num : Int) : ℚ) / ((2 ^ (x.exp + y.exp) : Nat) : ℚ) =
      binary64Value x * binary64Value y := by
    unfold binary64Value; push_cast; rw [pow_add]; field_simp
  rw [e] at h
  exact h

end Sys2Proof.Machine
end

