-- ==== Sys2Proof/Tests/Slice0.lean ====
section
/-!
SUPPORT. Tests, each with its source in spec/, and for each statement with hypotheses a witness that meets them.
-/
namespace Sys2Proof.Tests
open Sys2Proof.Machine

/-! Helpers: configurations of spec/95_test_vectors.md, and the next state of an outcome. -/

def params (rate : Nat) (tie : TieMode) : Params where
  rate := rate
  threshold := 15000
  axisMap := [0, 1, 2, 3]
  tieMode := tie
  blockMax := 65535
  deviceName := ""
  axisLo := 0
  axisHi := 255
  nbutton := 1

def c2000 : Config := { params 2000 .halfEven with valid := by decide }
def c48000 : Config := { params 48000 .halfEven with valid := by decide }
def cAway : Config := { params 48000 .halfAway with valid := by decide }
def cB64 : Config := { params 48000 .referenceB64 with valid := by decide }
def c44100 : Config := { params 44100 .halfEven with valid := by decide }
def c150 : Config := { params 150 .halfEven with valid := by decide }
def cTwo : Config := { params 2000 .halfEven with axisMap := [5, 9], valid := by decide }

def nextOf (o : Host.Outcome State Fault Refusal) : Option State :=
  match o with
  | .next t => some t
  | .fault _ => none
  | .refused _ => none

/-- R20's level, offset, frame and block elements. -/
structure Brief where
  level : Bool
  feValid : Bool
  feOff : Int
  synced : Bool
  ch : Nat
  blkIdx : Nat
  syncReq : Bool
deriving DecidableEq, Repr

def brief (t : State) : Brief :=
  ⟨t.level, t.feValid, t.feOff, t.synced, t.ch, t.blkIdx, t.syncReq⟩

def s0 : State := State.resetFor c2000

/-- Line low, fall at 4, Synced(0), index 7 (V-PT-3). -/
def sLow : State := { s0 with feValid := true, feOff := 4, blkIdx := 7, synced := true }

/-- Line high, no fall recorded, index 5 (V-PT-1). -/
def sHigh : State := { s0 with level := true, blkIdx := 5 }

/-- After a WRITE in the block, index 45 (V-PT-5). -/
def sWrote : State :=
  { s0 with
    feValid := true, feOff := 44, blkIdx := 45, syncReq := true, synced := true, ch := 1,
    events := [.declare, .write 0 204], evtOut := some (.write 0 204) }

def presenting (w : Word) (s : State) : State := presentWords [w] s

def resetCycle : PortCycle := { rst := true, cmdValid := true, cmd := 0x40000000, statAddr := 0 }

def idleCycle : PortCycle := { rst := false, cmdValid := false, cmd := 0x40000000, statAddr := 3 }

/-! Well-formedness and instantiation: an ill-formed term for each check. -/

theorem test_wellFormed_refuses :
    wellFormed (.sample 32768) = false ∧ wellFormed (.sample (-32769)) = false := by decide

theorem test_wellFormed_accepts :
    wellFormed (.sample 32767) = true ∧ wellFormed (.sample (-32768)) = true ∧
    wellFormed .endBlock = true := by decide

theorem test_instantiate_refuses :
    (params 0 .halfEven).instantiate = none ∧ (params 16777217 .halfEven).instantiate = none ∧
    { params 2000 .halfEven with threshold := 32768 }.instantiate = none ∧
    { params 2000 .halfEven with threshold := -32769 }.instantiate = none ∧
    { params 2000 .halfEven with axisMap := [] }.instantiate = none ∧
    { params 2000 .halfEven with axisMap := List.replicate 17 0 }.instantiate = none ∧
    { params 2000 .halfEven with blockMax := 0 }.instantiate = none ∧
    { params 2000 .halfEven with blockMax := 16777217 }.instantiate = none := by decide

/-! Encodings: 95 V-EN and R77 to R79. -/

theorem test_decode_sample_bits :
    decode 0b00000000000000000011101010011001 = .command (.sample 15001) := by decide

theorem test_decode_sample_sign :
    decode 0b00000000000000001000000000000000 = .command (.sample (-32768)) := by decide

theorem test_decode_endBlock_bits :
    decode 0b01000000000000000000000000000000 = .command .endBlock := by decide

theorem test_decode_illegal :
    decode 0x00010000 = .illegal .sampleReservedBits ∧ decode 0x20004E20 = .illegal .sampleReservedBits ∧
    decode 0x40000001 = .illegal .endBlockPayload ∧ decode 0x80000000 = .illegal .reservedOp ∧
    decode 0xC0000000 = .illegal .reservedOp ∧ decode 0xFFFFFFFF = .illegal .reservedOp := by decide

theorem test_event_words :
    eventWord c2000 (.write 0 (enc16 204)) = 0x400000CC ∧
    eventWord c2000 (.write 2 (enc16 (-51))) = 0x4200FFCD ∧
    eventWord c2000 (.write 3 (enc16 (-178))) = 0x4300FF4E ∧
    eventWord c2000 (.write 15 (enc16 1096)) = 0x4F000448 ∧
    eventWord c2000 .sync = 0x80000000 ∧ eventWord c2000 .declare = 0xC301FF00 := by decide

/-- R82, R83: `FEED` in text, with a comment. -/
theorem test_assemble_feed :
    assembleLine ['F', 'E', 'E', 'D', ' ', '-', '1', ',', ' ', '0', 'x', '8', '0', '0', '0', ' ', ';', 'x'] =
      some [0x0000FFFF, 0x00008000, 0x40000000] := by decide

/-! Sub-operations. -/

/-- V-ED-1: the comparison is strict and signed. -/
theorem test_level :
    sampleLevel c2000 15000 = false ∧ sampleLevel c2000 15001 = true ∧
    sampleLevel c2000 32767 = true ∧ sampleLevel c2000 (-32768) = false := by decide

/-- V-ED-2. -/
theorem test_transition :
    transition false false = .noEdge ∧ transition false true = .rising ∧
    transition true false = .falling ∧ transition true true = .noEdge := by decide

/-- The table of 95 §2.4 at RATE 2000. -/
theorem test_value_map_2000 :
    [1, 2, 3, 4, 5, 6, 7, 8, 9].map (fun w => mapValue c2000 w) =
      [-51, 76, 204, 332, 459, 586, 714, 842, 969] := by decide

/-- The ties of 95 §2.4 at RATE 48000, in the three modes. -/
theorem test_value_map_ties :
    [16, 32, 48, 96, 144].map (fun w => mapValue c48000 w) = [-94, -8, 76, 332, 586] ∧
    [16, 32, 48, 96, 144].map (fun w => mapValue cAway w) = [-94, -9, 77, 332, 587] ∧
    [16, 32, 48, 96, 144].map (fun w => mapValue cB64 w) = [-94, -9, 77, 332, 586] := by decide

/-- R145's values. -/
theorem test_marker_width :
    markerWidth c2000 = 10 ∧ markerWidth c44100 = 221 ∧ markerWidth c48000 = 240 ∧
    markerWidth c150 = 1 := by decide

/-- V-FD-12: the axis is AXIS_MAP's entry, not the channel's number. -/
theorem test_axis_map :
    (frameStep 3 { State.resetFor cTwo with synced := true, ch := 1 }).evtOut = some (.write 9 204) := by decide

/-- The STATUS value after program P1 (95 §3): `0x00000043`. -/
theorem test_status_word :
    statusRegister { s0 with synced := true, ch := 4, feValid := true, feOff := -1 } 0 = 0x00000043 ∧
    statusRegister { s0 with synced := true, ch := 4, feValid := true, feOff := -1 } 1 = 0xFFFFFFFF ∧
    statusRegister { s0 with err := true, errCause := .blockOverflow, feValid := true } 0 = 0x00050002 ∧
    statusRegister s0 7 = 0x00003210 := by decide

/-! One step of each command. -/

/-- V-PT-3: a width of 3 at Synced(0) emits WRITE(0, 204), and the offset stays. -/
theorem test_sample_channel_pulse :
    (nextOf (step (presenting 0x00004E20 sLow))).map (fun t => (brief t, t.evtOut)) =
      some (⟨true, true, 4, true, 1, 8, true⟩, some (.write 0 204)) := by decide

/-- V-ER-2: the sample after BLOCK_MAX samples is not processed. -/
theorem test_sample_overflow :
    (nextOf (exec (.sample 20000) { s0 with blkIdx := 65535 })).map (fun t => (t.err, t.errCause, brief t)) =
      some (true, .blockOverflow, ⟨false, false, 0, false, 0, 65535, false⟩) := by decide

/-- V-PT-5. -/
theorem test_endBlock_sync :
    (nextOf (step (presenting 0x40000000 sWrote))).map (fun t => (brief t, t.evtOut)) =
      some (⟨false, true, -1, true, 1, 0, false⟩, some .sync) := by decide

/-- V-SG-4: `FE_OFF` would be -2001. -/
theorem test_endBlock_guard :
    (nextOf (exec .endBlock { s0 with feValid := true, feOff := -2000, blkIdx := 1, synced := true, ch := 2 })).map
      brief = some ⟨false, false, 0, false, 0, 0, false⟩ := by decide

/-- V-ER-1: an illegal word sets the error status alone. -/
theorem test_illegal_word :
    (nextOf (step (presenting 0x80000000 sLow))).map (fun t => (t.err, t.errCause, brief t, t.evtOut)) =
      some (true, .illegalCmd, brief sLow, none) := by decide

/-- V-RS-1 and R200: reset wins over the command presented with it. -/
theorem test_reset_step :
    (nextOf (step { sWrote with inputs := [resetCycle] })).map (fun t => (brief t, t.evtOut, t.events.length)) =
      some (brief s0, some .declare, 3) := by decide

/-- The host's placement: the very next step after reset runs the word. -/
theorem test_placed_word :
    (nextOf (step (State.reset.withFetchWord 32 0x00004E20))).map (fun t => (t.level, t.blkIdx)) =
      some (true, 1) ∧
    (nextOf (step (State.reset.withFetchWord 32 0x40000000))).map (fun t => (t.blkIdx, t.err)) =
      some (0, false) := by decide

/-! Witnesses. -/

theorem wit_reset_invariant : Invariant s0 := by constructor <;> decide

theorem wit_low_invariant : Invariant sLow := by constructor <;> decide

theorem wit_wrote_invariant : Invariant sWrote := by constructor <;> decide

theorem wit_slow_rate :
    Invariant (State.resetFor c150) ∧ (State.resetFor c150).cfg.rate ≤ 200 ∧
    (nextOf (step (State.resetFor c150))).isSome = true := by
  refine ⟨?_, by decide, by decide⟩
  constructor <;> decide

theorem wit_events_ordered : EventsOrdered s0.events := by
  refine ⟨rfl, fun before after h => ?_⟩
  cases before with
  | nil => simp [s0, State.resetFor] at h
  | cons e es => simp [s0, State.resetFor] at h

/-- IllegalWordsRaiseOnlyError: a word of each case, presented. -/
theorem wit_illegal_word :
    (presenting 0x80000000 s0).inputs = [commandCycle 0x80000000] ∧
    decode 0x00010000 = .illegal .sampleReservedBits ∧ decode 0x3FFFFFFF = .illegal .sampleReservedBits ∧
    decode 0x40000001 = .illegal .endBlockPayload ∧ decode 0x7FFFFFFF = .illegal .endBlockPayload ∧
    decode 0x80000000 = .illegal .reservedOp ∧ decode 0xFFFFFFFF = .illegal .reservedOp := by decide

/-- DecodeOfEncode, EncodeOfDecode. -/
theorem wit_round_trip :
    WellFormed (.sample (-32768)) ∧ WellFormed .endBlock ∧
    decode 0x00008000 = .command (.sample (-32768)) := by decide

/-- StepRunsPresentedCommand, PlacedWordRunsNext. -/
theorem wit_presented_command :
    (presenting 0x0000FFFF s0).inputs = [commandCycle 0x0000FFFF] ∧ WellFormed (.sample (-1)) ∧
    decode 0x0000FFFF = .command (.sample (-1)) ∧ decodeTableWord 32 0x40000000 = some .endBlock := by decide

/-- InstantiationChecksParameters: an accepted record. -/
theorem wit_instantiate : (params 2000 .halfEven).instantiate = some c2000 := by decide

/-- ResetStepWins, IdleHoldsState (an idle cycle, and none). -/
theorem wit_reset_and_idle :
    { s0 with inputs := [resetCycle] }.inputs = resetCycle :: [] ∧ resetCycle.rst = true ∧
    (∀ c ∈ { s0 with inputs := [idleCycle] }.inputs.head?, c.rst = false ∧ c.cmdValid = false) ∧
    ∀ c ∈ s0.inputs.head?, c.rst = false ∧ c.cmdValid = false := by decide

/-- Statements about a step's next state: one for each action, and both SAMPLE outcomes. -/
theorem wit_steps :
    ((nextOf (step s0)).isSome = true ∧ nextAction s0 = .idle) ∧
    ((nextOf (step { s0 with inputs := [resetCycle] })).isSome = true ∧
      nextAction { s0 with inputs := [resetCycle] } = .reset) ∧
    ((nextOf (step (presenting 0x80000000 s0))).isSome = true ∧
      nextAction (presenting 0x80000000 s0) = .illegal) ∧
    ((nextOf (step (presenting 0x00004E20 sLow))).isSome = true ∧
      nextAction (presenting 0x00004E20 sLow) = .run (.sample 20000)) ∧
    ((nextOf (step (presenting 0x40000000 sLow))).isSome = true ∧
      nextAction (presenting 0x40000000 sLow) = .run .endBlock) := by decide

/-- SampleEqualLevels at both levels, one of them the sample equal to THRESHOLD. -/
theorem wit_equal_levels :
    sLow.blkIdx ≠ sLow.cfg.blockMax ∧ (sLow.level = true ↔ sLow.cfg.threshold < 15000) ∧
    (sHigh.level = true ↔ sHigh.cfg.threshold < 15001) := by decide

/-- SampleFallingEdgeCaptures, SampleCompletesWithFrame at the last index of a block. -/
theorem wit_falling_edge :
    { sHigh with blkIdx := 65534 }.blkIdx ≠ sHigh.cfg.blockMax ∧ sHigh.level = true ∧
    (15000 : Int) ≤ sHigh.cfg.threshold := by decide

theorem wit_rise_without_fall :
    s0.blkIdx ≠ s0.cfg.blockMax ∧ s0.level = false ∧ s0.cfg.threshold < 15001 ∧ s0.feValid = false := by decide

/-- SampleSyncGap at width MARKER_WIDTH. -/
theorem wit_sync_gap :
    { sLow with blkIdx := 14 }.blkIdx ≠ sLow.cfg.blockMax ∧ sLow.level = false ∧
    sLow.cfg.threshold < 20000 ∧ sLow.feValid = true ∧
    (markerWidth sLow.cfg : Int) = (({ sLow with blkIdx := 14 }.blkIdx : Nat) : Int) - sLow.feOff := by decide

/-- SampleChannelPulse at width MARKER_WIDTH - 1 on the last channel, and a step that advances CH. -/
theorem wit_channel_pulse :
    { sLow with blkIdx := 13, ch := 3 }.ch < sLow.cfg.axisMap.length ∧
    (({ sLow with blkIdx := 13 }.blkIdx : Nat) : Int) - sLow.feOff = (markerWidth sLow.cfg : Int) - 1 ∧
    sLow.synced = true ∧ (nextOf (step (presenting 0x00004E20 sLow))).map (fun t => t.ch) = some 1 := by decide

/-- SampleDroppedPulse: Unsynced, and pinned at CH = NCH. -/
theorem wit_dropped_pulse :
    ((sLow.blkIdx : Nat) : Int) - sLow.feOff < markerWidth sLow.cfg ∧
    { sLow with synced := false }.synced = false ∧
    sLow.cfg.axisMap.length ≤ { sLow with ch := 4 }.ch := by decide

theorem wit_overflow : { s0 with blkIdx := 65535 }.blkIdx = s0.cfg.blockMax := by decide

/-- GuardBoundary and GuardMeasuresFallAge: the ages RATE and RATE + 1. -/
theorem wit_guard_boundary :
    ({ sLow with feOff := -1993 }.feOff - (sLow.blkIdx : Int) = -(sLow.cfg.rate : Int)) ∧
    ({ sLow with feOff := -1994 }.feOff - (sLow.blkIdx : Int) = -(sLow.cfg.rate : Int) - 1) ∧
    sLow.feValid = true ∧
    (nextOf (exec .endBlock { sLow with feOff := -1993 })).map (fun t => t.feValid) = some true ∧
    (nextOf (exec .endBlock { sLow with feOff := -1994 })).map (fun t => t.feValid) = some false := by decide

/-- EmptyBlockIsNoop. -/
theorem wit_empty_block : Invariant { s0 with level := true, feValid := true, feOff := -2000 } ∧ s0.blkIdx = 0 := by
  refine ⟨?_, rfl⟩
  constructor <;> decide

/-- RoundNearestIsNearest at ties of both signs, TieModesAgreeAwayFromTies. -/
theorem wit_rounding :
    roundNearest .halfEven 153 2 = 76 ∧ roundNearest .halfAway 153 2 = 77 ∧
    roundNearest .halfAway (-17) 2 = -9 ∧ roundNearest .halfEven (-17) 2 = -8 ∧
    2 * |(7 : Int) - 3 * 2| < 3 := by decide

/-- MapValueIsExactAndNearest (a tie), MapValueRange at both ends of the channel widths. -/
theorem wit_value_map :
    c2000.tieMode ≠ .referenceB64 ∧ c2000.tieMode = .halfEven ∧
    (1 : Int) < markerWidth c2000 ∧ (9 : Int) < markerWidth c2000 := by decide

/-- The writers' statements: steps that change LEVEL, the offset and the frame state, in each way. -/
theorem wit_writers :
    (nextOf (step (presenting 0x00004E20 s0))).map (fun t => t.level) = some true ∧
    (nextOf (step { sHigh with inputs := [resetCycle] })).map (fun t => t.level) = some false ∧
    (nextOf (step (presenting 0x00000000 sHigh))).map (fun t => (t.feValid, t.feOff)) = some (true, 5) ∧
    (nextOf (step (presenting 0x40000000 sLow))).map (fun t => (t.feValid, t.feOff)) = some (true, -3) ∧
    (nextOf (step { sLow with inputs := [resetCycle] })).map (fun t => (t.feValid, t.feOff)) = some (false, 0) ∧
    (nextOf (step (presenting 0x00004E20 { sLow with blkIdx := 14, ch := 3 }))).map
      (fun t => (t.synced, t.ch)) = some (true, 0) ∧
    (nextOf (step (presenting 0x40000000 { sLow with feOff := -1994 }))).map
      (fun t => (t.synced, t.feValid)) = some (false, false) := by decide

/-- ErrorStatusIsSticky and OnlyTwoErrors. -/
theorem wit_errors :
    nextAction (presenting 0x80000000 { s0 with err := true, errCause := .blockOverflow }) ≠ .reset ∧
    (nextOf (step (presenting 0x80000000 { s0 with err := true, errCause := .blockOverflow }))).map
      (fun t => (t.err, t.errCause)) = some (true, .blockOverflow) ∧
    (nextOf (step (presenting 0x00000000 { s0 with blkIdx := 65535 }))).map
      (fun t => (t.err, t.errCause)) = some (true, .blockOverflow) ∧
    (nextOf (step { s0 with err := true, errCause := .illegalCmd, inputs := [resetCycle] })).map
      (fun t => (t.err, t.errCause)) = some (false, .noError) := by decide

/-- StatusPortExposesState: two states that agree in registers 0 to 2 and differ in their events. -/
theorem wit_status_port :
    Invariant sLow ∧ Invariant { sLow with evtOut := none } ∧
    statusRegister sLow 0 = statusRegister { sLow with evtOut := none } 0 ∧
    statusRegister sLow 1 = statusRegister { sLow with evtOut := none } 1 ∧
    statusRegister sLow 2 = statusRegister { sLow with evtOut := none } 2 := by
  refine ⟨wit_low_invariant, ?_, by decide, by decide, by decide⟩
  constructor <;> decide

/-- ForwardedWidthRange at widths 1 and above RATE. -/
theorem wit_forwarded_width :
    Invariant { sLow with feOff := 6 } ∧ Invariant { sLow with feOff := -2000 } ∧
    sLow.feValid = true ∧ sLow.blkIdx ≠ sLow.cfg.blockMax := by
  refine ⟨?_, ?_, by decide, by decide⟩ <;> constructor <;> decide

/-- WrittenValuesInRange. -/
theorem wit_written_value :
    Invariant (presenting 0x00004E20 sLow) ∧
    (nextOf (step (presenting 0x00004E20 sLow))).map (fun t => t.evtOut) = some (some (.write 0 204)) := by
  refine ⟨?_, by decide⟩
  constructor <;> decide

/-- FeedRunsItsBlock, PseudoSampleExpansions, LowBlockIsSilent. -/
theorem wit_feed :
    (∀ v ∈ [(-32768 : Int), 0, 15000], sampleInRange v) ∧
    (∀ v ∈ [(-32768 : Int), 0, 15000], v ≤ sHigh.cfg.threshold) ∧
    0 ≤ c2000.threshold ∧ c2000.threshold ≤ 19999 := by decide

/-- SyntheticFrameDecodes on the frame of P1 (95 §3), and on one with no pulse, of a gap of exactly MARKER_WIDTH. -/
theorem wit_synthetic_frame :
    sHigh.level = true ∧ sHigh.syncReq = false ∧ sampleInRange 0 ∧ sampleInRange 20000 ∧
    (0 : Int) ≤ sHigh.cfg.threshold ∧ sHigh.cfg.threshold < 20000 ∧ markerWidth sHigh.cfg ≤ 10 ∧
    (∀ w ∈ [3, 5, 1, 9], 1 ≤ w ∧ w < markerWidth sHigh.cfg) ∧ [3, 5, 1, 9].length ≤ nch sHigh.cfg ∧
    sHigh.blkIdx + (frameSamples 0 20000 10 [3, 5, 1, 9]).length ≤ sHigh.cfg.blockMax ∧
    (∀ w ∈ ([] : List Nat), 1 ≤ w ∧ w < markerWidth sHigh.cfg) ∧ ([] : List Nat).length ≤ nch sHigh.cfg ∧
    sHigh.blkIdx + (frameSamples 0 20000 10 []).length ≤ sHigh.cfg.blockMax := by decide

/-- WidthsDoNotDependOnCuts: a fall and its rise in one block and in two. -/
theorem wit_cuts :
    samplesOf [.sample 0, .sample 20000, .endBlock] = samplesOf [.sample 0, .endBlock, .sample 20000] ∧
    Quiet [.sample 0, .sample 20000, .endBlock] sHigh ∧ Quiet [.sample 0, .endBlock, .sample 20000] sHigh := by
  refine ⟨by decide, ⟨by decide, ?_⟩, ⟨by decide, ?_⟩⟩
  · rintro t ⟨⟩
    refine ⟨by decide, ?_⟩
    rintro u ⟨⟩
    exact ⟨by decide, fun _ _ => trivial⟩
  · rintro t ⟨⟩
    refine ⟨by decide, ?_⟩
    rintro u ⟨⟩
    exact ⟨by decide, fun _ _ => trivial⟩

end Sys2Proof.Tests
end

section
/-!
PROOFS. Scope (spec/00_scope.md): what instantiation refuses and what it keeps (R9).
-/
namespace Sys2Proof

theorem Params.instantiate_of_valid {p : Params} (h : p.Valid) :
    p.instantiate = some { p with valid := h } := dif_pos h

theorem Params.instantiate_of_not_valid {p : Params} (h : ¬p.Valid) : p.instantiate = none := dif_neg h

theorem Params.instantiate_eq_none_iff (p : Params) : p.instantiate = none ↔ ¬p.Valid := by
  constructor
  · intro hnone hvalid
    rw [instantiate_of_valid hvalid] at hnone
    cases hnone
  · exact instantiate_of_not_valid

/-- An accepted record is kept as it is: the configuration only adds the proof that R9 holds. -/
theorem Params.toParams_of_instantiate {p : Params} {c : Config} (hc : p.instantiate = some c) :
    c.toParams = p := by
  by_cases hvalid : p.Valid
  · rw [instantiate_of_valid hvalid] at hc
    cases hc
    rfl
  · rw [instantiate_of_not_valid hvalid] at hc
    cases hc

/-- Settles O10: instantiation decides `Params.Valid`, whose bounds are R9's once `2 ^ 24` is evaluated. -/
theorem instantiationChecksParameters : Obligations.InstantiationChecksParameters :=
  fun p => ⟨p.instantiate_eq_none_iff, fun _ => Params.toParams_of_instantiate⟩

end Sys2Proof
end

section
/-!
PROOFS. The state (spec/10_state.md): what reset leaves (R41) and who writes the recorded falling edge (R22).
-/
namespace Sys2Proof.Machine

/-- Settles O15: `State.resetFor` writes the values of R41 out, and this hardware is one configuration. -/
theorem resetValues : Obligations.ResetValues :=
  ⟨fun _ => ⟨rfl, rfl, rfl, rfl, rfl, rfl, rfl, rfl, rfl, rfl, rfl⟩, rfl⟩

/-- An accepted SAMPLE writes the recorded edge on a falling edge only; a rising edge reads it (R121, R122). -/
theorem acceptSample_fallingEdge (x : Int) (s : State) :
    ((acceptSample x s).feValid, (acceptSample x s).feOff) =
      if s.level = true ∧ x ≤ s.cfg.threshold then (true, (s.blkIdx : Int)) else (s.feValid, s.feOff) := by
  simp only [← sampleLevel_false_iff]
  obtain ⟨hlevel, heq⟩ | ⟨hhigh, hlow, heq⟩ | ⟨hlow, _, _, heq⟩ | ⟨hlow, _, _, heq⟩ := acceptSample_cases x s
  · simp [heq, hlevel]
  · simp [heq, hhigh, hlow]
  · simp [heq, hlow]
  · simp [heq, hlow]

/-- END_BLOCK clears the recorded edge where the guard fires, and re-bases it otherwise (R128, R160). -/
theorem closeBlock_fallingEdge (s : State) :
    ((closeBlock s).feValid, (closeBlock s).feOff) =
      if s.feValid = true ∧ s.feOff - s.blkIdx < -(s.cfg.rate : Int) then (false, 0)
      else if s.feValid = true then (true, s.feOff - s.blkIdx)
      else (s.feValid, s.feOff) := by
  obtain ⟨hvalid, hold, _, _, hvalid', hoff'⟩ | ⟨hyoung, _, _, hvalid', hoff'⟩ := closeBlock_carry s
  · rw [if_pos ⟨hvalid, hold⟩, hvalid', hoff']
  · rw [if_neg fun h => absurd (hyoung h.1) (Int.not_le.mpr h.2), hvalid', hoff']
    cases s.feValid <;> rfl

/-- Settles O39: the pair after each kind of step; only an accepted SAMPLE and END_BLOCK compute it. -/
theorem offsetWriters : Obligations.OffsetWriters := by
  intro s t hstep
  obtain ⟨ha, rfl⟩ | ⟨ha, rfl⟩ | ⟨ha, rfl⟩ | ⟨x, ha, hfull, rfl⟩ | ⟨x, ha, hroom, rfl⟩ | ⟨ha, rfl⟩ :=
    step_cases hstep <;> rw [ha]
  · rfl
  · rfl
  · rfl
  · exact (if_neg fun h => h.1 hfull).symm
  · exact (acceptSample_fallingEdge x (beginCycle s)).trans (if_congr (and_iff_right hroom).symm rfl rfl)
  · exact closeBlock_fallingEdge (beginCycle s)

end Sys2Proof.Machine
end

section
/-!
PROOFS. Encoding (spec/30_encoding.md): the command words (R71 to R74, R85) and what presenting them runs (R73, R83, R84).
-/
namespace Sys2Proof

/-! The decoder's answers, by the number of the word. -/

/-- `sext_16(cmd[15:0])` as a number: bit 15 of the word is the sign (R12, R71). -/
theorem sext16_sampleField (w : Word) :
    sext16 (sampleField w) =
      if w.toNat % 2 ^ 16 < 2 ^ 15 then ((w.toNat % 2 ^ 16 : Nat) : Int)
      else ((w.toNat % 2 ^ 16 : Nat) : Int) - 2 ^ 16 := by
  rw [sext16, BitVec.toInt_eq_toNat_cond, sampleField_toNat]
  exact if_congr (by omega) rfl rfl

theorem decode_eq_sample_iff (w : Word) (x : Int) :
    decode w = .command (.sample x) ↔ w.toNat < 2 ^ 16 ∧ x = sext16 (sampleField w) := by
  rw [decode_eq]
  split
  next hword => rw [Decoded.command.injEq, Instr.sample.injEq, and_iff_right hword, eq_comm]
  next hword =>
    refine iff_of_false ?_ fun h => hword h.1
    split <;> simp

theorem decode_illegal_iff (w : Word) :
    (∃ r, decode w = .illegal r) ↔ 2 ^ 16 ≤ w.toNat ∧ w.toNat ≠ 0x40000000 := by
  rw [decode_eq]
  split
  next hword => exact iff_of_false (by simp) fun h => absurd hword (Nat.not_lt.mpr h.1)
  next hword =>
    split
    next hend => exact iff_of_false (by simp) fun h => h.2 hend
    next hend => exact iff_of_true ⟨_, rfl⟩ ⟨Nat.not_lt.mp hword, hend⟩

/-- Decode undoes the encoder on every command that has an encoding (R71, R72, R74). -/
theorem decode_encode {i : Instr} (h : WellFormed i) : decode (encode i) = .command i := by
  rw [decode_eq]
  cases i with
  | sample x =>
    have hword : (encode (.sample x)).toNat < 2 ^ 16 := by
      rw [encode_sample_toNat]
      exact (enc16 x).isLt
    rw [if_pos hword, sampleField_encode, sext16_enc16 h]
  | endBlock => rfl

theorem map_decode_encode {is : List Instr} (h : ∀ i ∈ is, WellFormed i) :
    (is.map encode).map decode = is.map .command := by
  rw [List.map_map]
  exact List.map_congr_left fun i hi => decode_encode (h i hi)

/-- Settles O1: a finite table, evaluated row by row. -/
theorem encodingTableWordsDecode : Obligations.EncodingTableWordsDecode := by
  unfold Obligations.EncodingTableWordsDecode
  decide

/-- Settles O2: a SAMPLE word is below `2 ^ 16`, so its sample field is the whole number. -/
theorem sampleFormat : Obligations.SampleFormat := by
  intro w x
  rw [decode_eq_sample_iff, sext16_sampleField]
  refine and_congr_right fun hword => ?_
  rw [Nat.mod_eq_of_lt hword]

end Sys2Proof

namespace Sys2Proof.Machine

/-! What a presented word makes of a step. -/

theorem actionOfWord_of_command {w : Word} {i : Instr} (h : decode w = .command i) :
    actionOfWord w = .run i := by rw [actionOfWord, h]

theorem actionOfWord_of_illegal {w : Word} (h : ∃ r, decode w = .illegal r) :
    actionOfWord w = .illegal := by
  obtain ⟨r, hr⟩ := h
  rw [actionOfWord, hr]

theorem step_of_run {s : State} {i : Instr} (h : nextAction s = .run i) :
    step s = exec i (beginCycle s) := by rw [step, h]

theorem step_of_illegal {s : State} (h : nextAction s = .illegal) :
    step s = .next (raiseError .illegalCmd (beginCycle s)) := by rw [step, h]

/-- Settles O4: the four cases are the numbers outside both formats, and the step is R182's error action on
the state whose cycle has been taken. -/
theorem illegalWordsRaiseOnlyError : Obligations.IllegalWordsRaiseOnlyError := by
  refine ⟨fun w => ?_, fun s w a rest hinputs hillegal => ?_⟩
  · have hw := w.isLt
    rw [decode_illegal_iff]
    omega
  · have haction : nextAction s = .illegal := by
      rw [nextAction_command hinputs, actionOfWord_of_illegal hillegal]
    rw [step_of_illegal haction, beginCycle, hinputs]
    rfl

/-! Presenting a command's word is running the command. The presented run differs from the commands' run in the
cycles still to come and in the event port; the relation below is kept by every operation of `exec`. -/

/-- `t` is `s` with the cycles `cs` presented before `s`'s own, and with any event on the port. -/
def AheadOf (cs : List PortCycle) (s t : State) : Prop :=
  ∃ e, t = { s with inputs := cs ++ s.inputs, evtOut := e }

section
variable {cs : List PortCycle} {s t : State}

/-- With no cycle left ahead, two such states differ in the event port alone. -/
theorem AheadOf.eq_of_nil (h : AheadOf [] s t) : t = { s with evtOut := t.evtOut } := by
  obtain ⟨e, rfl⟩ := h
  rfl

/-- Both refuse the next SAMPLE or neither does (R181). -/
theorem AheadOf.full_iff (h : AheadOf cs s t) : t.blkIdx = t.cfg.blockMax ↔ s.blkIdx = s.cfg.blockMax := by
  obtain ⟨e, rfl⟩ := h
  rfl

theorem raiseError_aheadOf (c : ErrCause) (h : AheadOf cs s t) :
    AheadOf cs (raiseError c s) (raiseError c t) := by
  obtain ⟨e, rfl⟩ := h
  exact ⟨e, rfl⟩

theorem frameStep_aheadOf (w : Int) (h : AheadOf cs s t) :
    AheadOf cs (frameStep w s) (frameStep w t) := by
  obtain ⟨e, rfl⟩ := h
  unfold frameStep
  dsimp only
  split
  · exact ⟨_, rfl⟩
  · split <;> exact ⟨_, rfl⟩

theorem measureRise_aheadOf (h : AheadOf cs s t) : AheadOf cs (measureRise s) (measureRise t) := by
  have hframe := frameStep_aheadOf (s.blkIdx - s.feOff) h
  obtain ⟨e, rfl⟩ := h
  unfold measureRise
  dsimp only
  split
  · exact hframe
  · exact ⟨e, rfl⟩

theorem onEdge_aheadOf (edge : Edge) (h : AheadOf cs s t) :
    AheadOf cs (onEdge edge s) (onEdge edge t) := by
  cases edge with
  | noEdge => exact h
  | rising => exact measureRise_aheadOf h
  | falling =>
    obtain ⟨e, rfl⟩ := h
    exact ⟨e, rfl⟩

theorem advanceIndex_aheadOf (h : AheadOf cs s t) : AheadOf cs (advanceIndex s) (advanceIndex t) := by
  obtain ⟨e, rfl⟩ := h
  exact ⟨e, rfl⟩

theorem acceptSample_aheadOf (x : Int) (h : AheadOf cs s t) :
    AheadOf cs (acceptSample x s) (acceptSample x t) := by
  obtain ⟨e, rfl⟩ := h
  exact advanceIndex_aheadOf (onEdge_aheadOf _ ⟨e, rfl⟩)

theorem flushSync_aheadOf (h : AheadOf cs s t) : AheadOf cs (flushSync s) (flushSync t) := by
  obtain ⟨e, rfl⟩ := h
  unfold flushSync
  dsimp only
  split <;> exact ⟨_, rfl⟩

theorem normaliseOffset_aheadOf (h : AheadOf cs s t) :
    AheadOf cs (normaliseOffset s) (normaliseOffset t) := by
  obtain ⟨e, rfl⟩ := h
  unfold normaliseOffset
  dsimp only
  split <;> exact ⟨e, rfl⟩

theorem syncLossGuard_aheadOf (h : AheadOf cs s t) :
    AheadOf cs (syncLossGuard s) (syncLossGuard t) := by
  obtain ⟨e, rfl⟩ := h
  have hfires : guardFires { s with inputs := cs ++ s.inputs, evtOut := e } = guardFires s := rfl
  unfold syncLossGuard
  rw [hfires]
  split <;> exact ⟨e, rfl⟩

theorem clearIndex_aheadOf (h : AheadOf cs s t) : AheadOf cs (clearIndex s) (clearIndex t) := by
  obtain ⟨e, rfl⟩ := h
  exact ⟨e, rfl⟩

theorem closeBlock_aheadOf (h : AheadOf cs s t) : AheadOf cs (closeBlock s) (closeBlock t) :=
  clearIndex_aheadOf (syncLossGuard_aheadOf (normaliseOffset_aheadOf (flushSync_aheadOf h)))

/-- Every command completes, and neither the cycles to come nor the port's event change what it does. -/
theorem exec_aheadOf (i : Instr) (h : AheadOf cs s t) :
    ∃ s' t', exec i s = .next s' ∧ exec i t = .next t' ∧ AheadOf cs s' t' := by
  cases i with
  | endBlock => exact ⟨_, _, exec_endBlock s, exec_endBlock t, closeBlock_aheadOf h⟩
  | sample x =>
    by_cases hfull : s.blkIdx = s.cfg.blockMax
    · exact ⟨_, _, execSample_overflow hfull x, execSample_overflow (h.full_iff.mpr hfull) x,
        raiseError_aheadOf _ h⟩
    · exact ⟨_, _, execSample_accept hfull x, execSample_accept (mt h.full_iff.mp hfull) x,
        acceptSample_aheadOf x h⟩

end

/-- The step that takes the first presented word runs that word's command. -/
theorem step_presentWords {i : Instr} (h : WellFormed i) (ws : List Word) (s : State) :
    step (presentWords (encode i :: ws) s) = exec i (presentWords ws { s with evtOut := none }) := by
  have haction : nextAction (presentWords (encode i :: ws) s) = .run i := by
    rw [nextAction_presentWords, actionOfWord_of_command (decode_encode h)]
  rw [step_of_run haction, beginCycle_presentWords]

theorem presentWords_aheadOf (ws : List Word) (s : State) (e : Option Event) :
    AheadOf (ws.map commandCycle) s (presentWords ws { s with evtOut := e }) := ⟨e, rfl⟩

/-- The words of well-formed commands, presented one a cycle, run those commands, event port aside; what stands
on the port at the start does not matter. -/
theorem runWords_encode {is : List Instr} (hwf : ∀ i ∈ is, WellFormed i) (s : State) (e : Option Event) :
    ∃ t u, runWords (is.map encode) { s with evtOut := e } = .next t ∧ execAll is s = .next u ∧
      AheadOf [] u t := by
  induction is generalizing s e with
  | nil => exact ⟨_, s, rfl, rfl, e, rfl⟩
  | cons i is ih =>
    obtain ⟨hi, his⟩ := List.forall_mem_cons.mp hwf
    obtain ⟨s', t', hs', ht', e', rfl⟩ := exec_aheadOf i (presentWords_aheadOf (is.map encode) s none)
    have hstep : step (presentWords ((i :: is).map encode) { s with evtOut := e }) =
        .next (presentWords (is.map encode) { s' with evtOut := e' }) :=
      (step_presentWords hi _ _).trans ht'
    obtain ⟨t, u, ht, hu, htu⟩ := ih his s' e'
    refine ⟨t, u, ?_, ?_, htu⟩
    · exact (run_succ hstep _).trans ht
    · rw [execAll, hs']
      exact hu

/-! The pseudo-instructions (R83, R84). -/

/-- The commands `FEED` stands for (R83). -/
def feedCommands (vs : List Int) : List Instr := vs.map .sample ++ [.endBlock]

theorem expandLine_feed (vs : List Int) :
    expandLine (.feed vs) = (feedCommands vs).map encode := by
  simp [expandLine, feedCommands]

theorem feedCommands_wellFormed {vs : List Int} (h : ∀ v ∈ vs, sampleInRange v) :
    ∀ i ∈ feedCommands vs, WellFormed i := by
  intro i hi
  rw [feedCommands, List.mem_append, List.mem_map, List.mem_singleton] at hi
  obtain ⟨v, hv, rfl⟩ | rfl := hi
  · exact h v hv
  · trivial

/-- Settles O55: FEED's words are the encodings of its commands, so they decode to them and run them. -/
theorem feedRunsItsBlock : Obligations.FeedRunsItsBlock := by
  intro vs s hrange
  have hwf := feedCommands_wellFormed hrange
  rw [expandLine_feed]
  refine ⟨?_, ?_⟩
  · rw [map_decode_encode hwf]
    simp [feedCommands]
  · obtain ⟨t, u, ht, hu, htu⟩ := runWords_encode hwf s s.evtOut
    exact ⟨t, u, ht, hu, htu.eq_of_nil⟩

theorem low_high_levels_iff (c : Config) :
    (sampleLevel c 0 = false ∧ sampleLevel c 20000 = true) ↔ 0 ≤ c.threshold ∧ c.threshold ≤ 19999 := by
  rw [sampleLevel_false_iff, sampleLevel_true_iff]
  omega

/-- Settles O56: each expansion is a repetition of one word, and R100's strict comparison gives the bounds. -/
theorem pseudoSampleExpansions : Obligations.PseudoSampleExpansions := by
  refine ⟨fun v n hv => ⟨List.length_replicate, fun w hw => ?_⟩,
    fun n => ⟨rfl, rfl, fun w hw => ?_, fun w hw => ?_⟩, low_high_levels_iff,
    (low_high_levels_iff Config.hardware).mpr ⟨by decide, by decide⟩⟩
  · rw [List.eq_of_mem_replicate hw]
    exact decode_encode hv
  · rw [List.eq_of_mem_replicate hw]
    decide
  · rw [List.eq_of_mem_replicate hw]
    decide

end Sys2Proof.Machine
end

section
/-!
PROOFS. The pulse timer (spec/41_pulse_timer.md): what SAMPLE does on an edge (R121, R123), the range of a measured
width (R132), and END_BLOCK as one equation (R126 to R130).
-/
namespace Sys2Proof.Machine

/-! SAMPLE on an edge. -/

section
variable {s : State} {x : Int}

theorem acceptSample_of_fall (hhigh : s.level = true) (hx : x ≤ s.cfg.threshold) :
    acceptSample x s = advanceIndex (captureFall { s with level := false }) := by
  rw [acceptSample, sampleLevel_low hx, hhigh]
  rfl

theorem acceptSample_of_rise (hlow : s.level = false) (hx : s.cfg.threshold < x) :
    acceptSample x s = advanceIndex (measureRise { s with level := true }) := by
  rw [acceptSample, sampleLevel_high hx, hlow]
  rfl

end

theorem measureRise_of_no_fall (s : State) (h : s.feValid = false) : measureRise s = s :=
  if_neg (Bool.eq_false_iff.mp h)

/-- Settles O19: the captured index is the one the sample had before `BLK_IDX` moves on. -/
theorem sampleFallingEdgeCaptures : Obligations.SampleFallingEdgeCaptures := by
  intro s x hroom hhigh hx
  rw [exec_sample, execSample_accept hroom, acceptSample_of_fall hhigh hx]
  rfl

/-- Settles O20: with no recorded fall the measurement is the identity. -/
theorem sampleRiseWithoutFall : Obligations.SampleRiseWithoutFall := by
  intro s x hroom hlow hx hfall
  rw [exec_sample, execSample_accept hroom, acceptSample_of_rise hlow hx,
    measureRise_of_no_fall { s with level := true } hfall]
  rfl

/-! The measured width. -/

/-- `ceil(RATE/200)` does not exceed `RATE`, since `RATE >= 1` (R9, R132). -/
theorem markerWidth_le_rate (c : Config) : markerWidth c ≤ c.rate := by
  have hrate := rate_pos c
  rw [markerWidth]
  omega

/-- Settles O52: the invariant bounds the offset and the index, and an accepted sample's index is below `BLOCK_MAX`. -/
theorem forwardedWidthRange : Obligations.ForwardedWidthRange := by
  intro s hinv hfall hroom
  obtain ⟨hold, hbefore⟩ := hinv.offsetRange hfall
  have hindex : s.blkIdx < s.cfg.blockMax := lt_of_le_of_ne hinv.indexBound hroom
  have hmarker := markerWidth_le_rate s.cfg
  refine ⟨?_, ?_, fun hlong => ?_⟩ <;> omega

/-! END_BLOCK, one equation an operation, in the order R129 fixes. -/

theorem flushSync_eq (s : State) :
    flushSync s = { s with
      syncReq := false
      evtOut := if s.syncReq then some .sync else s.evtOut
      events := if s.syncReq then s.events ++ [.sync] else s.events } := by
  unfold flushSync
  split <;> rfl

theorem normaliseOffset_eq (s : State) :
    normaliseOffset s =
      { s with feOff := if s.feValid then s.feOff - s.blkIdx else s.feOff } := by
  unfold normaliseOffset
  split <;> rfl

theorem syncLossGuard_of_fires {s : State} (h : guardFires s = true) :
    syncLossGuard s = { s with synced := false, ch := 0, feValid := false, feOff := 0 } := if_pos h

theorem syncLossGuard_of_not_fires {s : State} (h : ¬guardFires s = true) : syncLossGuard s = s := if_neg h

theorem guardFires_iff (s : State) :
    guardFires s = true ↔ s.feValid = true ∧ s.feOff < -(s.cfg.rate : Int) := by
  rw [guardFires, Bool.and_eq_true, decide_eq_true_iff, lossWindow]

/-- The guard's condition inside END_BLOCK, in terms of the state before it: the SYNC decision does not touch it. -/
theorem guardFires_closing (s : State) :
    guardFires (normaliseOffset (flushSync s)) = true ↔
      s.feValid = true ∧ s.feOff - s.blkIdx < -(s.cfg.rate : Int) := by
  simpa using guardFires_normalised (flushSync s)

/-- Settles O26: the SYNC decision stands in both branches of the guard, which comes after it (R129). -/
theorem endBlockResult : Obligations.EndBlockResult := by
  intro s
  rw [exec_endBlock, closeBlock]
  by_cases hloss : s.feValid = true ∧ s.feOff - s.blkIdx < -(s.cfg.rate : Int)
  · rw [if_pos hloss, syncLossGuard_of_fires ((guardFires_closing s).mpr hloss), normaliseOffset_eq, flushSync_eq]
    rfl
  · rw [if_neg hloss, syncLossGuard_of_not_fires (mt (guardFires_closing s).mp hloss), normaliseOffset_eq,
      flushSync_eq]
    rfl

/-- At a block's start, with no SYNC requested and no fall older than `RATE`, each operation of END_BLOCK is the
identity. -/
theorem closeBlock_eq_self {s : State} (hidx : s.blkIdx = 0) (hreq : s.syncReq = false)
    (hage : s.feValid = true → -(s.cfg.rate : Int) ≤ s.feOff) : closeBlock s = s := by
  have hflush : flushSync s = s := by
    rw [flushSync, if_neg (Bool.eq_false_iff.mp hreq), ← hreq]
  have hnormal : normaliseOffset s = s := by
    have hoff : (if s.feValid then s.feOff - s.blkIdx else s.feOff) = s.feOff := by simp [hidx]
    rw [normaliseOffset_eq, hoff]
  have hquiet : ¬guardFires s = true := fun hfires => by
    obtain ⟨hfall, hold⟩ := (guardFires_iff s).mp hfires
    exact Int.not_le.mpr hold (hage hfall)
  have hclear : clearIndex s = s := by
    rw [clearIndex, ← hidx]
  rw [closeBlock, hflush, hnormal, syncLossGuard_of_not_fires hquiet, hclear]

/-- Settles O29: the invariant gives what an empty block needs, R25's clear flag and item 4's bound on the offset. -/
theorem emptyBlockIsNoop : Obligations.EmptyBlockIsNoop := by
  intro s hinv hidx
  rw [exec_endBlock, closeBlock_eq_self hidx (hinv.blockStart hidx) fun hfall => (hinv.offsetRange hfall).1]

end Sys2Proof.Machine
end

section
/-!
PROOFS. The frame decoder (spec/42_frame_decoder.md): what SAMPLE does with a measured width, a sync gap (R142), a
channel pulse (R143, R149) or a dropped pulse (R144), and where `CH` increases (R143).
-/
namespace Sys2Proof.Machine

/-! FrameStep, one equation a case of R141. -/

section
variable {s : State} {w : Int}

theorem frameStep_of_gap (hgap : (markerWidth s.cfg : Int) ≤ w) :
    frameStep w s = { s with synced := true, ch := 0 } :=
  if_pos ((isGap_marker_iff s.cfg w).mpr hgap)

theorem frameStep_of_short (hshort : w < markerWidth s.cfg) :
    frameStep w s =
      if s.synced = true ∧ s.ch < nch s.cfg then
        emit (channelEvent s.cfg s.ch w) { s with ch := s.ch + 1, syncReq := true }
      else s :=
  if_neg fun hgap => Int.not_le.mpr hshort ((isGap_marker_iff s.cfg w).mp hgap)

theorem frameStep_of_pulse (hshort : w < markerWidth s.cfg) (hsync : s.synced = true)
    (hch : s.ch < nch s.cfg) :
    frameStep w s = emit (channelEvent s.cfg s.ch w) { s with ch := s.ch + 1, syncReq := true } := by
  rw [frameStep_of_short hshort, if_pos ⟨hsync, hch⟩]

theorem frameStep_of_dropped (hshort : w < markerWidth s.cfg)
    (hdrop : s.synced = false ∨ nch s.cfg ≤ s.ch) : frameStep w s = s := by
  rw [frameStep_of_short hshort, if_neg]
  rintro ⟨hsync, hch⟩
  obtain hunsynced | hpinned := hdrop
  · exact absurd hsync (Bool.eq_false_iff.mp hunsynced)
  · exact absurd hch (Nat.not_lt.mpr hpinned)

/-- On a channel inside the mapping, the event carries that channel's entry of `AXIS_MAP` (R149). -/
theorem channelEvent_of_lt {c : Config} {k : Nat} (hk : k < c.axisMap.length) :
    channelEvent c k w = .write c.axisMap[k] (enc16 (mapValue c w)) := by
  rw [channelEvent, axisAt, List.getD_eq_getElem _ _ hk]

end

/-! SAMPLE on a rising edge that measures a width. -/

theorem measureRise_of_fall {s : State} (h : s.feValid = true) :
    measureRise s = frameStep (s.blkIdx - s.feOff) s := if_pos h

theorem exec_sample_of_measured {s : State} {x : Int} (hroom : s.blkIdx ≠ s.cfg.blockMax)
    (hlow : s.level = false) (hx : s.cfg.threshold < x) (hfall : s.feValid = true) :
    exec (.sample x) s =
      .next (advanceIndex (frameStep (s.blkIdx - s.feOff) { s with level := true })) := by
  rw [exec_sample, execSample_accept hroom, acceptSample_of_rise hlow hx,
    measureRise_of_fall (s := { s with level := true }) hfall]

/-- Settles O21: a gap's branch of FrameStep does not look at the frame state. -/
theorem sampleSyncGap : Obligations.SampleSyncGap := by
  intro s x hroom hlow hx hfall hgap
  rw [exec_sample_of_measured hroom hlow hx hfall, frameStep_of_gap (s := { s with level := true }) hgap]
  rfl

/-- Settles O23: neither frame state of R144 passes the channel pulse's test. -/
theorem sampleDroppedPulse : Obligations.SampleDroppedPulse := by
  intro s x hroom hlow hx hfall hshort hdrop
  rw [exec_sample_of_measured hroom hlow hx hfall,
    frameStep_of_dropped (s := { s with level := true }) hshort hdrop]
  rfl

/-! Where `CH` increases. -/

/-- What holds where `CH` increases from `s` to `t`: it moves by one, on a channel pulse (R143). -/
def AdvancesOnPulse (s t : State) : Prop :=
  t.ch = s.ch + 1 ∧ s.synced = true ∧ s.ch < s.cfg.axisMap.length ∧
    (s.blkIdx : Int) - s.feOff < markerWidth s.cfg

/-- A gap sets `CH` to 0 and a dropped pulse keeps it, so only a channel pulse increases it. -/
theorem frameStep_ch_lt {s : State} {w : Int} (h : s.ch < (frameStep w s).ch) :
    (frameStep w s).ch = s.ch + 1 ∧ s.synced = true ∧ s.ch < nch s.cfg ∧ w < markerWidth s.cfg := by
  obtain ⟨_, heq⟩ | ⟨hshort, hsync, hch, heq⟩ | ⟨_, _, heq⟩ := frameStep_cases w s
  · rw [heq] at h
    exact absurd h (Nat.not_lt_zero s.ch)
  · refine ⟨by rw [heq]; rfl, hsync, hch, Int.not_le.mp fun hgap => ?_⟩
    exact Bool.eq_false_iff.mp hshort ((isGap_marker_iff s.cfg w).mpr hgap)
  · rw [heq] at h
    exact absurd h (Nat.lt_irrefl s.ch)

/-- Of the edges of R120, only a rise that measures a width reaches the frame state. -/
theorem acceptSample_ch_lt {x : Int} {s : State} (h : s.ch < (acceptSample x s).ch) :
    AdvancesOnPulse s (acceptSample x s) := by
  obtain ⟨_, heq⟩ | ⟨_, _, heq⟩ | ⟨_, _, _, heq⟩ | ⟨_, _, _, heq⟩ := acceptSample_cases x s <;> rw [heq] at h ⊢
  · exact absurd h (Nat.lt_irrefl s.ch)
  · exact absurd h (Nat.lt_irrefl s.ch)
  · exact absurd h (Nat.lt_irrefl s.ch)
  · exact frameStep_ch_lt (s := { s with level := true }) h

theorem closeBlock_ch_le (s : State) : (closeBlock s).ch ≤ s.ch := by
  obtain ⟨_, _, _, hch, _⟩ | ⟨_, _, hch, _⟩ := closeBlock_carry s
  · rw [hch]
    exact Nat.zero_le s.ch
  · exact hch.le

theorem step_ch_lt {s t : State} (hstep : step s = .next t) (h : s.ch < t.ch) : AdvancesOnPulse s t := by
  obtain ⟨_, rfl⟩ | ⟨_, rfl⟩ | ⟨_, rfl⟩ | ⟨x, _, _, rfl⟩ | ⟨x, _, _, rfl⟩ | ⟨_, rfl⟩ := step_cases hstep
  · exact absurd h (Nat.lt_irrefl s.ch)
  · exact absurd h (Nat.not_lt_zero s.ch)
  · exact absurd h (Nat.lt_irrefl s.ch)
  · exact absurd h (Nat.lt_irrefl s.ch)
  · exact acceptSample_ch_lt (s := beginCycle s) h
  · exact absurd h (Nat.not_lt.mpr (closeBlock_ch_le (beginCycle s)))

/-- Settles O22: FrameStep's channel pulse gives the whole next state, and every other action of a step keeps `CH` or
sets it to 0. -/
theorem sampleChannelPulse : Obligations.SampleChannelPulse := by
  refine ⟨fun s x hch hroom hlow hx hfall hshort hsync => ?_, fun s t => step_ch_lt⟩
  rw [exec_sample_of_measured hroom hlow hx hfall,
    frameStep_of_pulse (s := { s with level := true }) hshort hsync hch, channelEvent_of_lt hch]
  rfl

end Sys2Proof.Machine
end

section
/-!
PROOFS. Reset and timing (spec/70_reset_and_hazards.md): the reset step (R200, R202) and the event of a step (R218).
-/
namespace Sys2Proof.Machine

/-! The reset step. -/

/-- `rst` is looked at before the command port (R200). -/
theorem nextAction_reset {s : State} {c : PortCycle} {rest : List PortCycle} (hinputs : s.inputs = c :: rest)
    (hrst : c.rst = true) : nextAction s = .reset := by
  rw [nextAction, hinputs]
  exact if_pos hrst

theorem step_of_reset {s : State} (h : nextAction s = .reset) :
    step s = .next (performReset (beginCycle s)) := by rw [step, h]

/-- Settles O13: the cycle's action is the reset, and `Reset()` writes the values out. -/
theorem resetStepWins : Obligations.ResetStepWins := by
  intro s c rest hinputs hrst
  rw [step_of_reset (nextAction_reset hinputs hrst), beginCycle, hinputs]
  rfl

/-! The event of a step. -/

/-- From `s` to `t` nothing is emitted, or one WRITE, which then stands on the event port. -/
def EmitsAtMostOneWrite (s t : State) : Prop :=
  (t.events = s.events ∧ t.evtOut = s.evtOut) ∨
    ∃ axis value, t.events = s.events ++ [.write axis value] ∧ t.evtOut = some (.write axis value)

/-- Of R141's cases, only the channel pulse emits. -/
theorem frameStep_emits (w : Int) (s : State) : EmitsAtMostOneWrite s (frameStep w s) := by
  obtain ⟨_, heq⟩ | ⟨_, _, _, heq⟩ | ⟨_, _, heq⟩ := frameStep_cases w s <;> rw [heq]
  · exact .inl ⟨rfl, rfl⟩
  · exact .inr ⟨_, _, rfl, rfl⟩
  · exact .inl ⟨rfl, rfl⟩

/-- One sample has at most one edge, and only a rise that measures a width calls FrameStep, once. -/
theorem acceptSample_emits (x : Int) (s : State) : EmitsAtMostOneWrite s (acceptSample x s) := by
  obtain ⟨_, heq⟩ | ⟨_, _, heq⟩ | ⟨_, _, _, heq⟩ | ⟨_, _, _, heq⟩ := acceptSample_cases x s <;> rw [heq]
  · exact .inl ⟨rfl, rfl⟩
  · exact .inl ⟨rfl, rfl⟩
  · exact .inl ⟨rfl, rfl⟩
  · exact frameStep_emits _ { s with level := true }

/-- Where the port was empty, the emitted WRITE, if any, is what the port shows. -/
theorem EmitsAtMostOneWrite.port {s t : State} (h : EmitsAtMostOneWrite s t) (hport : s.evtOut = none) :
    t.events = s.events ++ t.evtOut.toList ∧
      (t.evtOut = none ∨ ∃ axis value, t.evtOut = some (.write axis value)) := by
  obtain ⟨hevents, hout⟩ | ⟨axis, value, hevents, hout⟩ := h
  · rw [hevents, hout, hport]
    exact ⟨(List.append_nil s.events).symm, .inl rfl⟩
  · rw [hevents, hout]
    exact ⟨rfl, .inr ⟨axis, value, rfl⟩⟩

/-- END_BLOCK emits the requested SYNC and nothing else (R127). -/
theorem closeBlock_port {s : State} (hport : s.evtOut = none) :
    (closeBlock s).events = s.events ++ (closeBlock s).evtOut.toList ∧
      (closeBlock s).evtOut = if s.syncReq then some .sync else none := by
  rw [closeBlock_events, closeBlock_evtOut, hport]
  cases s.syncReq <;> simp

/-- Settles O17: each step starts from an empty port, and each kind of step emits at most once from there. -/
theorem atMostOneEventPerStep : Obligations.AtMostOneEventPerStep := by
  intro s t hstep
  have hnone : s.events = s.events ++ (none : Option Event).toList := (List.append_nil s.events).symm
  have hempty : (beginCycle s).evtOut = none := rfl
  obtain ⟨ha, rfl⟩ | ⟨ha, rfl⟩ | ⟨ha, rfl⟩ | ⟨x, ha, hfull, rfl⟩ | ⟨x, ha, hroom, rfl⟩ | ⟨ha, rfl⟩ :=
    step_cases hstep <;> rw [ha]
  · exact ⟨hnone, rfl⟩
  · exact ⟨rfl, rfl⟩
  · exact ⟨hnone, rfl⟩
  · exact ⟨hnone, .inl rfl, fun _ => rfl⟩
  · obtain ⟨hevents, hwrite⟩ := (acceptSample_emits x (beginCycle s)).port hempty
    exact ⟨hevents, hwrite, fun hfull => absurd hfull hroom⟩
  · exact closeBlock_port hempty

end Sys2Proof.Machine
end

section
/-!
PROOFS. Encoding, the converse directions (spec/30_encoding.md): the END_BLOCK word (R72), each legal word as an
encoding (R74), and the event words with their reader (R76 to R81).
-/
namespace Sys2Proof

/-! Command words. -/

theorem decode_eq_endBlock_iff (w : Word) : decode w = .command .endBlock ↔ w.toNat = 0x40000000 := by
  rw [decode_eq]
  split
  next hword => exact iff_of_false (by simp) (by omega)
  next hword =>
    split
    next hend => exact iff_of_true rfl hend
    next hend => exact iff_of_false (by simp) hend

/-- A word below `2 ^ 16` is the encoding of the sample in its low half. -/
theorem encode_sampleField {w : Word} (h : w.toNat < 2 ^ 16) :
    encode (.sample (sext16 (sampleField w))) = w := by
  apply BitVec.eq_of_toNat_eq
  rw [encode_sample_toNat, enc16_sext16, sampleField_toNat, Nat.mod_eq_of_lt h]

theorem encode_of_decode {w : Word} {i : Instr} (h : decode w = .command i) :
    WellFormed i ∧ encode i = w := by
  cases i with
  | sample x =>
    obtain ⟨hword, rfl⟩ := (decode_eq_sample_iff w x).mp h
    exact ⟨sext16_inRange _, encode_sampleField hword⟩
  | endBlock =>
    have hword := (decode_eq_endBlock_iff w).mp h
    exact ⟨trivial, BitVec.eq_of_toNat_eq (encode_endBlock_toNat.trans hword.symm)⟩

/-- Settles O5: `decode_encode`, whose cases are the two command formats. -/
theorem decodeOfEncode : Obligations.DecodeOfEncode := fun _ => decode_encode

/-- Settles O3: the decoder answers END_BLOCK at one number only. -/
theorem endBlockFormat : Obligations.EndBlockFormat := fun w =>
  (decode_eq_endBlock_iff w).trans (BitVec.toNat_inj (y := (0x40000000 : Word)))

/-- Settles O6: a SAMPLE word keeps its sample field, and END_BLOCK has one word. -/
theorem encodeOfDecode : Obligations.EncodeOfDecode := fun _ _ => encode_of_decode

end Sys2Proof

namespace Sys2Proof.Machine

/-! Event words as numbers. -/

theorem append_toNat {m n : Nat} (x : BitVec m) (y : BitVec n) :
    (x ++ y).toNat = x.toNat * 2 ^ n + y.toNat := by
  rw [BitVec.toNat_append, ← Nat.shiftLeft_add_eq_or_of_lt y.isLt, Nat.shiftLeft_eq]

theorem eventWord_write_toNat (c : Config) (axis : BitVec 4) (value : BitVec 16) :
    (eventWord c (.write axis value)).toNat = 2 ^ 30 + axis.toNat * 2 ^ 24 + value.toNat := by
  rw [eventWord]
  simp only [append_toNat, BitVec.toNat_ofNat]
  omega

theorem eventWord_sync_toNat (c : Config) : (eventWord c .sync).toNat = 0x80000000 := rfl

theorem eventWord_declare_toNat (c : Config) :
    (eventWord c .declare).toNat =
      3 * 2 ^ 30 + (c.axisMap.length - 1) * 2 ^ 24 + c.nbutton.toNat * 2 ^ 16 + c.axisHi.toNat * 2 ^ 8 +
        c.axisLo.toNat := by
  have hch : c.axisMap.length ≤ 16 := nch_le c
  rw [eventWord]
  simp only [append_toNat, BitVec.toNat_ofNat, nch]
  omega

/-! The fields a reader takes out of a word (R81). -/

theorem kindField_toNat (w : Word) : (kindField w).toNat = w.toNat / 2 ^ 30 := opField_toNat w

theorem axisField_toNat (w : Word) : (axisField w).toNat = w.toNat / 2 ^ 24 % 2 ^ 4 := by
  simp only [axisField, BitVec.extractLsb'_toNat, Nat.shiftRight_eq_div_pow]

theorem valueField_toNat (w : Word) : (valueField w).toNat = w.toNat % 2 ^ 16 := sampleField_toNat w

@[simp] theorem axisField_write (c : Config) (axis : BitVec 4) (value : BitVec 16) :
    axisField (eventWord c (.write axis value)) = axis := by
  apply BitVec.eq_of_toNat_eq
  rw [axisField_toNat, eventWord_write_toNat]
  omega

@[simp] theorem valueField_write (c : Config) (axis : BitVec 4) (value : BitVec 16) :
    valueField (eventWord c (.write axis value)) = value := by
  apply BitVec.eq_of_toNat_eq
  rw [valueField_toNat, eventWord_write_toNat]
  omega

/-- `KIND` of each event (R76). -/
def kindOf : Event → BitVec 2
  | .write _ _ => 0b01
  | .sync => 0b10
  | .declare => 0b11

@[simp] theorem kindField_eventWord (c : Config) (e : Event) : kindField (eventWord c e) = kindOf e := by
  apply BitVec.eq_of_toNat_eq
  rw [kindField_toNat]
  cases e with
  | write axis value =>
    rw [eventWord_write_toNat]
    change _ = 1
    omega
  | sync => rw [eventWord_sync_toNat]; rfl
  | declare =>
    have hch : c.axisMap.length ≤ 16 := nch_le c
    rw [eventWord_declare_toNat]
    change _ = 3
    omega

/-- Words of events of different kinds differ. -/
theorem eventWord_ne_of_kind {c : Config} {e f : Event} (h : kindOf e ≠ kindOf f) :
    eventWord c e ≠ eventWord c f := fun heq => h <| by
  rw [← kindField_eventWord c e, heq, kindField_eventWord]

theorem eventOfWord_eventWord (c : Config) (e : Event) : eventOfWord c (eventWord c e) = some e := by
  unfold eventOfWord
  cases e with
  | sync => exact if_pos rfl
  | declare => rw [if_neg (eventWord_ne_of_kind (by decide)), if_pos rfl]
  | write axis value =>
    have hsync : kindOf (.write axis value) ≠ kindOf .sync := by simp [kindOf]
    have hdeclare : kindOf (.write axis value) ≠ kindOf .declare := by simp [kindOf]
    rw [axisField_write, valueField_write, if_neg (eventWord_ne_of_kind hsync),
      if_neg (eventWord_ne_of_kind hdeclare), if_pos rfl]

/-- Settles O7: the word as a number gives both fields; the example's word is evaluated. -/
theorem writeWordFields : Obligations.WriteWordFields := by
  refine ⟨fun c axis value => ⟨eventWord_write_toNat c axis value, axisField_write c axis value, ?_⟩, fun c => ?_⟩
  · rw [valueOfWord, valueField_write, sext16]
  · rw [eventWord]
    decide

/-- Settles O8: `NCH - 1` fits its four bits by R9. -/
theorem syncAndDeclareWords : Obligations.SyncAndDeclareWords :=
  ⟨fun c => ⟨eventWord_sync_toNat c, eventWord_declare_toNat c⟩, by decide⟩

/-- Settles O9: the kinds tell the three words apart, and a WRITE's fields are read from its word. -/
theorem eventWordsReadBack : Obligations.EventWordsReadBack := by
  refine fun c e => ⟨eventOfWord_eventWord c e, ?_⟩
  rw [kindField_eventWord]
  cases e <;> simp [kindOf]

end Sys2Proof.Machine
end

section
/-!
PROOFS. The invariants (spec/10_state.md R42, R44): reset establishes them, every operation of a step keeps them, and
under them the elements fit their registers.
-/
namespace Sys2Proof.Machine

@[simp] theorem lastIsWrite_append_singleton (es : List Event) (e : Event) :
    lastIsWrite (es ++ [e]) = isWrite e := by simp [lastIsWrite]

/-- Settles O49: each item is about the values of R41. -/
theorem invariantAfterReset : Obligations.InvariantAfterReset := by
  have hreset : ∀ c : Config, Invariant (State.resetFor c) := fun c =>
    { unsyncedChannel := fun _ => rfl
      channelBound := Nat.zero_le _
      unsetOffset := fun _ => rfl
      offsetRange := fun hfall => absurd hfall Bool.false_ne_true
      indexBound := Nat.zero_le _
      syncRequest := rfl
      errorCause := iff_of_true rfl rfl
      blockStart := fun _ => rfl }
  exact ⟨hreset, hreset Config.hardware⟩

/-- Reset establishes the invariant whatever the state was (R201). -/
theorem performReset_invariant (s : State) : Invariant (performReset s) where
  unsyncedChannel _ := rfl
  channelBound := Nat.zero_le _
  unsetOffset _ := rfl
  offsetRange hfall := absurd hfall Bool.false_ne_true
  indexBound := Nat.zero_le _
  syncRequest := (lastIsWrite_append_singleton s.events .declare).symm
  errorCause := iff_of_true rfl rfl
  blockStart _ := rfl

section
variable {s : State}

/-- No item speaks of the ports. -/
theorem beginCycle_invariant (h : Invariant s) : Invariant (beginCycle s) := { h with }

theorem raiseError_invariant (h : Invariant s) {cause : ErrCause} (hcause : cause ≠ .noError) :
    Invariant (raiseError cause s) :=
  { h with errorCause := iff_of_false Bool.noConfusion (keepFirstCause_ne hcause _) }

/-! The outcomes of an accepted SAMPLE. -/

/-- The index moves on inside the block; what the level becomes does not matter. -/
theorem Invariant.nextIndex (h : Invariant s) (hroom : s.blkIdx ≠ s.cfg.blockMax) (level : Bool) :
    Invariant { s with level := level, blkIdx := s.blkIdx + 1 } :=
  { h with
    offsetRange := fun hfall => by
      obtain ⟨hold, hbefore⟩ := h.offsetRange hfall
      exact ⟨hold, by push_cast; omega⟩
    indexBound := Nat.lt_of_le_of_ne h.indexBound hroom
    blockStart := fun hidx => absurd hidx (Nat.succ_ne_zero _) }

/-- A fall recorded before the next index and within the window (R121). -/
theorem Invariant.recordFall (h : Invariant s) {off : Int}
    (hoff : -(s.cfg.rate : Int) ≤ off ∧ off ≤ (s.blkIdx : Int) - 1) :
    Invariant { s with feValid := true, feOff := off } :=
  { h with
    unsetOffset := fun hfall => absurd hfall Bool.noConfusion
    offsetRange := fun _ => hoff }

theorem Invariant.gap (h : Invariant s) : Invariant { s with synced := true, ch := 0 } :=
  { h with
    unsyncedChannel := fun _ => rfl
    channelBound := Nat.zero_le _ }

/-- A channel pulse emits a WRITE and sets the request with it; the block it is in has begun (R143). -/
theorem Invariant.pulse (h : Invariant s) (hsync : s.synced = true) (hch : s.ch < nch s.cfg)
    (hidx : s.blkIdx ≠ 0) (w : Int) :
    Invariant (emit (channelEvent s.cfg s.ch w) { s with ch := s.ch + 1, syncReq := true }) :=
  { h with
    unsyncedChannel := fun hunsynced => absurd hsync (Bool.eq_false_iff.mp hunsynced)
    channelBound := hch
    syncRequest := (lastIsWrite_append_singleton s.events (channelEvent s.cfg s.ch w)).symm
    blockStart := fun hzero => absurd hzero hidx }

theorem acceptSample_invariant (h : Invariant s) (hroom : s.blkIdx ≠ s.cfg.blockMax) (x : Int) :
    Invariant (acceptSample x s) := by
  obtain ⟨_, heq⟩ | ⟨_, _, heq⟩ | ⟨_, _, _, heq⟩ | ⟨_, _, hfall, heq⟩ := acceptSample_cases x s <;> rw [heq]
  · exact h.nextIndex hroom s.level
  · have hrate := rate_pos s.cfg
    exact (h.nextIndex hroom false).recordFall ⟨by omega, by push_cast; omega⟩
  · exact h.nextIndex hroom true
  · have hnext := h.nextIndex hroom true
    obtain ⟨_, hframe⟩ | ⟨_, hsync, hch, hframe⟩ | ⟨_, _, hframe⟩ :=
      frameStep_cases (s.blkIdx - s.feOff) { s with level := true } <;> rw [hframe]
    · exact hnext.gap
    · exact hnext.pulse hsync hch (Nat.succ_ne_zero _) _
    · exact hnext

/-! END_BLOCK. -/

/-- END_BLOCK removes the request in every case: with a SYNC where the last event was a WRITE (R127). -/
theorem closeBlock_lastIsWrite (h : Invariant s) : lastIsWrite (closeBlock s).events = false := by
  rw [closeBlock_events]
  cases hreq : s.syncReq with
  | true => exact lastIsWrite_append_singleton s.events .sync
  | false => exact h.syncRequest.symm.trans hreq

theorem closeBlock_invariant (h : Invariant s) : Invariant (closeBlock s) := by
  obtain ⟨_, _, hsynced, hch, hfall, hoff⟩ | ⟨hyoung, hsynced, hch, hfall, hoff⟩ := closeBlock_carry s
  · constructor <;> simp [hsynced, hch, hfall, hoff, closeBlock_lastIsWrite h, h.errorCause]
  · constructor
    case unsyncedChannel => simpa [hsynced, hch] using h.unsyncedChannel
    case channelBound => simpa [hch] using h.channelBound
    case unsetOffset =>
      intro hnone
      rw [hfall] at hnone
      simpa [hoff, hnone] using h.unsetOffset hnone
    case offsetRange =>
      intro hsome
      rw [hfall] at hsome
      obtain ⟨_, hbefore⟩ := h.offsetRange hsome
      rw [hoff, if_pos hsome, closeBlock_cfg, closeBlock_blkIdx]
      exact ⟨hyoung hsome, by push_cast; omega⟩
    case indexBound => simp
    case syncRequest => rw [closeBlock_syncReq, closeBlock_lastIsWrite h]
    case errorCause => simpa using h.errorCause
    case blockStart => simp

end

/-- Settles O50: reset establishes the invariant, and each other kind of step is an operation that keeps it. -/
theorem stepKeepsInvariants : Obligations.StepKeepsInvariants := by
  intro s t h hstep
  have hbegin := beginCycle_invariant h
  obtain ⟨_, rfl⟩ | ⟨_, rfl⟩ | ⟨_, rfl⟩ | ⟨x, _, _, rfl⟩ | ⟨x, _, hroom, rfl⟩ | ⟨_, rfl⟩ := step_cases hstep
  · exact hbegin
  · exact performReset_invariant _
  · exact raiseError_invariant hbegin (by decide)
  · exact raiseError_invariant hbegin (by decide)
  · exact acceptSample_invariant hbegin hroom x
  · exact closeBlock_invariant hbegin

/-! Widths. -/

/-- Settles O51: R42's bounds with R9's on `RATE`, `BLOCK_MAX` and `NCH`. -/
theorem registersFitTheirWidths : Obligations.RegistersFitTheirWidths := by
  intro s h
  have hrate := rate_le s.cfg
  have hmax := blockMax_le s.cfg
  have hnch := nch_le s.cfg
  have hidx := h.indexBound
  have hch := h.channelBound
  have hoff : -(s.cfg.rate : Int) ≤ s.feOff ∧ s.feOff < 2 ^ 24 := by
    cases hfall : s.feValid with
    | true =>
      obtain ⟨hold, hbefore⟩ := h.offsetRange hfall
      omega
    | false =>
      rw [h.unsetOffset hfall]
      omega
  omega

end Sys2Proof.Machine
end

section
/-!
PROOFS. The commands and the ports: what presenting a command or nothing does (R193, R217, R219), that every step
answers a state (R220), and the remaining outcomes and frames of SAMPLE (R120, R181) and END_BLOCK (R126 to R130, R160
to R164).
-/
namespace Sys2Proof.Machine

/-! The cycle. -/

theorem beginCycle_of_inputs {s : State} {c : PortCycle} {rest : List PortCycle}
    (hinputs : s.inputs = c :: rest) : beginCycle s = { s with inputs := rest, evtOut := none } := by
  rw [beginCycle, hinputs]
  rfl

/-- Settles O11: the presented word is the cycle's action, and the cycle is taken before the command runs. -/
theorem stepRunsPresentedCommand : Obligations.StepRunsPresentedCommand := by
  intro s w a rest i hinputs _ hdecode
  have haction : nextAction s = .run i := by
    rw [nextAction_command hinputs, actionOfWord_of_command hdecode]
  rw [step_of_run haction, beginCycle_of_inputs hinputs]

theorem decode_of_decodeTableWord {nbits w : Nat} {i : Instr} (h : decodeTableWord nbits w = some i) :
    decode (BitVec.ofNat 32 (w % 2 ^ nbits)) = .command i := by
  unfold decodeTableWord at h
  cases hdecode : decode (BitVec.ofNat 32 (w % 2 ^ nbits)) with
  | command j =>
    rw [hdecode] at h
    rw [Option.some.inj h]
  | illegal why =>
    rw [hdecode] at h
    cases h

/-- Settles O12: the placed word is the first presented one, and taking its cycle leaves the inputs as they were. -/
theorem placedWordRunsNext : Obligations.PlacedWordRunsNext := by
  intro s nbits w i hplaced
  have haction : nextAction (s.withFetchWord nbits w) = .run i := by
    rw [State.withFetchWord, nextAction_presentWords, actionOfWord_of_command (decode_of_decodeTableWord hplaced)]
  rw [step_of_run haction, State.withFetchWord, beginCycle_presentWords]
  rfl

theorem nextAction_idle {s : State} (h : ∀ c ∈ s.inputs.head?, c.rst = false ∧ c.cmdValid = false) :
    nextAction s = .idle := by
  unfold nextAction
  cases hinputs : s.inputs with
  | nil => rfl
  | cons c rest =>
    obtain ⟨hrst, hcmd⟩ := h c (by rw [hinputs]; rfl)
    simp [actionOfCycle, hrst, hcmd]

/-- Settles O14: the action is idle in both cases, and an idle step only begins the cycle. -/
theorem idleHoldsState : Obligations.IdleHoldsState := by
  intro s h
  rw [step, nextAction_idle h]
  rfl

/-- Every command answers a state, with the cycles to come and the configuration as they were. -/
theorem exec_completes (i : Instr) (s : State) :
    ∃ t, exec i s = .next t ∧ t.inputs = s.inputs ∧ t.cfg = s.cfg := by
  cases i with
  | endBlock => exact ⟨_, exec_endBlock s, closeBlock_inputs s, closeBlock_cfg s⟩
  | sample x =>
    by_cases hfull : s.blkIdx = s.cfg.blockMax
    · exact ⟨_, execSample_overflow hfull x, rfl, rfl⟩
    · exact ⟨_, execSample_accept hfull x, acceptSample_inputs x s, acceptSample_cfg x s⟩

/-- Settles O16: each action of a cycle answers a state. -/
theorem stepNeverStops : Obligations.StepNeverStops := by
  intro s
  unfold step
  cases nextAction s with
  | idle => exact ⟨_, rfl, rfl, rfl⟩
  | reset => exact ⟨_, rfl, rfl, rfl⟩
  | illegal => exact ⟨_, rfl, rfl, rfl⟩
  | run i => exact exec_completes i (beginCycle s)

/-! SAMPLE: the overflow, equal levels, and what an accepted sample does to the frame state and the events. -/

/-- Settles O24: the error action of R182 on the unprocessed state. -/
theorem sampleOverflowTraps : Obligations.SampleOverflowTraps :=
  fun _ x hfull => execSample_overflow hfull x

theorem acceptSample_of_equal {x : Int} {s : State} (h : s.level = sampleLevel s.cfg x) :
    acceptSample x s = { s with blkIdx := s.blkIdx + 1 } := by
  obtain ⟨_, heq⟩ | ⟨hhigh, hlow, _⟩ | ⟨hlow, hhigh, _⟩ | ⟨hlow, hhigh, _⟩ := acceptSample_cases x s
  · exact heq
  · simp [h, hlow] at hhigh
  · simp [h, hhigh] at hlow
  · simp [h, hhigh] at hlow

/-- Settles O18: the sample's level is `LEVEL`, so there is no edge. -/
theorem sampleEqualLevels : Obligations.SampleEqualLevels := by
  intro s x hroom hlevel
  rw [exec_sample, execSample_accept hroom, acceptSample_of_equal]
  rwa [Bool.eq_iff_iff, sampleLevel_true_iff]

/-- The sample `x` is a rising edge that measures a width (R122). -/
def Measures (x : Int) (s : State) : Prop :=
  s.level = false ∧ s.cfg.threshold < x ∧ s.feValid = true

/-- The frame state, the request and the event outputs are the same in `s` and `t`. -/
structure SameFrame (s t : State) : Prop where
  synced : t.synced = s.synced
  ch : t.ch = s.ch
  syncReq : t.syncReq = s.syncReq
  evtOut : t.evtOut = s.evtOut
  events : t.events = s.events

/-- From `s` to `t` a sync gap is taken, without an event (R142). -/
structure GapTaken (s t : State) : Prop where
  long : (markerWidth s.cfg : Int) ≤ s.blkIdx - s.feOff
  synced : t.synced = true
  ch : t.ch = 0
  syncReq : t.syncReq = s.syncReq
  evtOut : t.evtOut = s.evtOut
  events : t.events = s.events

/-- The width measured in `s` is a channel pulse (R143). -/
structure PulseDue (s : State) : Prop where
  short : (s.blkIdx : Int) - s.feOff < markerWidth s.cfg
  synced : s.synced = true
  ch : s.ch < nch s.cfg

/-- From `s` to `t` the channel pulse due in `s` is written (R143). -/
structure PulseTaken (s t : State) : Prop extends PulseDue s where
  synced' : t.synced = true
  ch' : t.ch = s.ch + 1
  syncReq' : t.syncReq = true
  evtOut' : t.evtOut = some (channelEvent s.cfg s.ch (s.blkIdx - s.feOff))
  events' : t.events = s.events ++ [channelEvent s.cfg s.ch (s.blkIdx - s.feOff)]

theorem acceptSample_of_measures {x : Int} {s : State} (h : Measures x s) :
    acceptSample x s = advanceIndex (frameStep (s.blkIdx - s.feOff) { s with level := true }) := by
  obtain ⟨hlow, hx, hfall⟩ := h
  rw [acceptSample_of_rise hlow hx, measureRise_of_fall (s := { s with level := true }) hfall]

/-- Only a rise that measures a width reaches the frame decoder (R120). -/
theorem acceptSample_sameFrame {x : Int} {s : State} (h : ¬Measures x s) : SameFrame s (acceptSample x s) := by
  obtain ⟨_, heq⟩ | ⟨_, _, heq⟩ | ⟨_, _, _, heq⟩ | ⟨hlow, hhigh, hfall, _⟩ := acceptSample_cases x s
  · rw [heq]
    exact ⟨rfl, rfl, rfl, rfl, rfl⟩
  · rw [heq]
    exact ⟨rfl, rfl, rfl, rfl, rfl⟩
  · rw [heq]
    exact ⟨rfl, rfl, rfl, rfl, rfl⟩
  · exact absurd ⟨hlow, (sampleLevel_true_iff s.cfg x).mp hhigh, hfall⟩ h

/-- Everything an accepted SAMPLE can do to the frame state, the request and the event outputs. -/
theorem acceptSample_frame (x : Int) (s : State) :
    SameFrame s (acceptSample x s) ∨ (Measures x s ∧ GapTaken s (acceptSample x s)) ∨
      (Measures x s ∧ PulseTaken s (acceptSample x s)) := by
  by_cases h : Measures x s
  · rw [acceptSample_of_measures h]
    obtain ⟨hgap, heq⟩ | ⟨hshort, hsync, hch, heq⟩ | ⟨_, _, heq⟩ :=
      frameStep_cases (s.blkIdx - s.feOff) { s with level := true } <;> rw [heq]
    · exact .inr (.inl ⟨h, (isGap_marker_iff s.cfg _).mp hgap, rfl, rfl, rfl, rfl, rfl⟩)
    · have hlt : (s.blkIdx : Int) - s.feOff < markerWidth s.cfg :=
        Int.not_le.mp (mt (isGap_marker_iff s.cfg _).mpr (Bool.eq_false_iff.mp hshort))
      exact .inr (.inr ⟨h, ⟨hlt, hsync, hch⟩, hsync, rfl, rfl, rfl, rfl⟩)
    · exact .inl ⟨rfl, rfl, rfl, rfl, rfl⟩
  · exact .inl (acceptSample_sameFrame h)

/-- Settles O25: the recorded edge and the frame state each have one kind of edge that writes them. -/
theorem sampleCompletesWithFrame : Obligations.SampleCompletesWithFrame := by
  intro s x hroom
  refine ⟨_, execSample_accept hroom x, by simp, acceptSample_blkIdx x s, acceptSample_cfg x s,
    acceptSample_inputs x s, acceptSample_err x s, acceptSample_errCause x s, fun hnofall => ?_, fun hnomeasure => ?_⟩
  · have hedge := acceptSample_fallingEdge x s
    rw [if_neg hnofall] at hedge
    exact Prod.mk.inj hedge
  · obtain ⟨hsynced, hch, hreq, hout, hevents⟩ := acceptSample_sameFrame hnomeasure
    exact ⟨hsynced, hch, hreq, hout, hevents⟩

/-! END_BLOCK. -/

/-- Settles O27: the two values lie on the two sides of the guard's comparison. -/
theorem guardBoundary : Obligations.GuardBoundary := by
  intro s hfall
  refine ⟨fun hedge => ⟨_, exec_endBlock s, ?_⟩, fun hpast => ⟨_, exec_endBlock s, ?_⟩⟩
  · obtain ⟨_, hold, _⟩ | ⟨_, hsynced, hch, hfall', hoff⟩ := closeBlock_carry s
    · omega
    · rw [if_pos hfall] at hoff
      exact ⟨hsynced, hch, hfall'.trans hfall, hoff.trans hedge⟩
  · obtain ⟨_, _, hsynced, hch, hfall', hoff⟩ | ⟨hyoung, _⟩ := closeBlock_carry s
    · exact ⟨hsynced, hch, hfall', hoff⟩
    · have := hyoung hfall
      omega

/-- Settles O28: item 6 of the invariant says when `SYNC_REQ` is set. -/
theorem endBlockSyncsWrites : Obligations.EndBlockSyncsWrites := by
  intro s h
  refine ⟨_, exec_endBlock s, closeBlock_syncReq s, ?_⟩
  rw [closeBlock_events, h.syncRequest]

/-- A fall that END_BLOCK leaves recorded is inside the window (R160). -/
theorem closeBlock_young (s : State) (h : (closeBlock s).feValid = true) :
    -(s.cfg.rate : Int) ≤ (closeBlock s).feOff := by
  obtain ⟨_, _, _, _, hfall, _⟩ | ⟨hyoung, _, _, hfall, hoff⟩ := closeBlock_carry s
  · rw [hfall] at h
    cases h
  · rw [hfall] at h
    rw [hoff, if_pos h]
    exact hyoung h

/-- Settles O30: the state after END_BLOCK meets what an empty block needs. -/
theorem secondEndBlockChangesNothing : Obligations.SecondEndBlockChangesNothing := by
  rintro s _ ⟨⟩
  have hsame : closeBlock (closeBlock s) = closeBlock s := by
    refine closeBlock_eq_self (closeBlock_blkIdx s) (closeBlock_syncReq s) fun hfall => ?_
    rw [closeBlock_cfg]
    exact closeBlock_young s hfall
  rw [exec_endBlock, hsame]

/-- Settles O31: each of the five fields is one that no operation of END_BLOCK writes. -/
theorem endBlockFrame : Obligations.EndBlockFrame := fun s =>
  ⟨_, exec_endBlock s, closeBlock_level s, closeBlock_err s, closeBlock_errCause s, closeBlock_cfg s,
    closeBlock_inputs s⟩

end Sys2Proof.Machine
end

section
/-!
PROOFS. Who writes what (spec/10_state.md R21 to R26, R43, spec/60_exceptions.md R180 to R183), the age the guard
measures (R163), and the order of events (spec/20_memory.md R57).
-/
namespace Sys2Proof.Machine

/-! The level, the block index, the request and the frame state. -/

/-- Settles O38: END_BLOCK, an illegal word, an overflow and an idle cycle keep the level. -/
theorem levelWriters : Obligations.LevelWriters := by
  intro s t hstep hne
  obtain ⟨_, rfl⟩ | ⟨ha, rfl⟩ | ⟨_, rfl⟩ | ⟨x, _, _, rfl⟩ | ⟨x, ha, _, rfl⟩ | ⟨_, rfl⟩ := step_cases hstep
  · exact absurd rfl hne
  · exact .inr ⟨ha, rfl⟩
  · exact absurd rfl hne
  · exact absurd rfl hne
  · exact .inl ⟨x, ha, by simp⟩
  · exact absurd (closeBlock_level (beginCycle s)) hne

/-- Where the port was empty, the request is set after a sample if it was before or the sample wrote (R25). -/
theorem acceptSample_syncReq_iff {s : State} (hport : s.evtOut = none) (x : Int) :
    (acceptSample x s).syncReq = true ↔
      s.syncReq = true ∨ ∃ axis value, (acceptSample x s).evtOut = some (.write axis value) := by
  obtain hsame | ⟨_, hgap⟩ | ⟨_, hpulse⟩ := acceptSample_frame x s
  · simp [hsame.syncReq, hsame.evtOut, hport]
  · simp [hgap.syncReq, hgap.evtOut, hport]
  · simp [hpulse.syncReq', hpulse.evtOut', channelEvent]

/-- Settles O40: an overflowing SAMPLE emits nothing and counts nothing, an accepted one counts one. -/
theorem blockIndexAndRequestWriters : Obligations.BlockIndexAndRequestWriters := by
  intro s t hstep
  obtain ⟨ha, rfl⟩ | ⟨ha, rfl⟩ | ⟨ha, rfl⟩ | ⟨x, ha, hfull, rfl⟩ | ⟨x, ha, hroom, rfl⟩ | ⟨ha, rfl⟩ :=
    step_cases hstep <;> rw [ha]
  · exact ⟨rfl, rfl⟩
  · exact ⟨rfl, rfl⟩
  · exact ⟨rfl, rfl⟩
  · exact ⟨(if_pos hfull).symm, by simp⟩
  · refine ⟨?_, acceptSample_syncReq_iff (beginCycle_evtOut s) x⟩
    rw [if_neg hroom, acceptSample_blkIdx, beginCycle_blkIdx]
  · exact ⟨closeBlock_blkIdx _, closeBlock_syncReq _⟩

/-- Settles O41: a sample moves the frame state by a gap or a pulse only, END_BLOCK by the guard only. -/
theorem channelIndexMoves : Obligations.ChannelIndexMoves := by
  intro s t hstep hmoved
  have hstill : ¬(t.synced = s.synced ∧ t.ch = s.ch) := fun ⟨hsynced, hch⟩ =>
    hmoved.elim (absurd hsynced) (absurd hch)
  obtain ⟨_, rfl⟩ | ⟨ha, rfl⟩ | ⟨_, rfl⟩ | ⟨x, _, _, rfl⟩ | ⟨x, ha, _, rfl⟩ | ⟨ha, rfl⟩ := step_cases hstep
  · exact absurd ⟨rfl, rfl⟩ hstill
  · exact .inr (.inr (.inr ⟨rfl, rfl, ha⟩))
  · exact absurd ⟨rfl, rfl⟩ hstill
  · exact absurd ⟨rfl, rfl⟩ hstill
  · obtain hsame | ⟨⟨hlow, hx, hfall⟩, hgap⟩ | ⟨_, hpulse⟩ := acceptSample_frame x (beginCycle s)
    · exact absurd ⟨hsame.synced, hsame.ch⟩ hstill
    · exact .inl ⟨hgap.synced, hgap.ch, hfall, hgap.long, hgap.evtOut, x, ha, hlow, hx⟩
    · exact .inr (.inl ⟨hpulse.synced', hpulse.synced, hpulse.ch, hpulse.ch', ⟨x, ha⟩, _, hpulse.evtOut'⟩)
  · obtain ⟨_, hold, hsynced, hch, _⟩ | ⟨_, hsynced, hch, _⟩ := closeBlock_carry (beginCycle s)
    · exact .inr (.inr (.inl ⟨hsynced, hch, ha, hold⟩))
    · exact absurd ⟨hsynced, hch⟩ hstill

/-! The error status. -/

/-- What each kind of step does to the error status (R26, R181, R182). -/
theorem step_errors {s t : State} (hstep : step s = .next t) :
    (t.err = s.err ∧ t.errCause = s.errCause) ∨ nextAction s = .reset ∨
    (nextAction s = .illegal ∧ t.err = true ∧ t.errCause = keepFirstCause s.errCause .illegalCmd) ∨
    (∃ x, nextAction s = .run (.sample x) ∧ s.blkIdx = s.cfg.blockMax ∧ t.err = true ∧
      t.errCause = keepFirstCause s.errCause .blockOverflow) := by
  obtain ⟨_, rfl⟩ | ⟨ha, rfl⟩ | ⟨ha, rfl⟩ | ⟨x, ha, hfull, rfl⟩ | ⟨x, _, _, rfl⟩ | ⟨_, rfl⟩ := step_cases hstep
  · exact .inl ⟨rfl, rfl⟩
  · exact .inr (.inl ha)
  · exact .inr (.inr (.inl ⟨ha, rfl, rfl⟩))
  · exact .inr (.inr (.inr ⟨x, ha, hfull, rfl, rfl⟩))
  · exact .inl ⟨acceptSample_err x _, acceptSample_errCause x _⟩
  · exact .inl ⟨closeBlock_err _, closeBlock_errCause _⟩

theorem keepFirstCause_of_none {old : ErrCause} (h : old = .noError) (new : ErrCause) :
    keepFirstCause old new = new := if_pos h

theorem keepFirstCause_of_some {old : ErrCause} (h : old ≠ .noError) (new : ErrCause) :
    keepFirstCause old new = old := if_neg h

/-- Settles O42: an error sets `ERR` and keeps a first cause; the other steps but reset keep both. -/
theorem errorStatusIsSticky : Obligations.ErrorStatusIsSticky := by
  intro s t hstep hnoreset
  obtain ⟨herr, hcause⟩ | ha | ⟨_, herr, hcause⟩ | ⟨_, _, _, herr, hcause⟩ := step_errors hstep
  · exact ⟨herr.trans, fun _ => hcause⟩
  · exact absurd ha hnoreset
  · exact ⟨fun _ => herr, fun hfirst => hcause.trans (keepFirstCause_of_some hfirst _)⟩
  · exact ⟨fun _ => herr, fun hfirst => hcause.trans (keepFirstCause_of_some hfirst _)⟩

/-- Settles O43: the cases of `step_errors` that change the status. -/
theorem onlyTwoErrors : Obligations.OnlyTwoErrors := by
  intro s t hstep hchanged
  obtain ⟨herr, hcause⟩ | ha | ⟨ha, herr, hcause⟩ | ⟨x, ha, hfull, herr, hcause⟩ := step_errors hstep
  · exact absurd hcause (hchanged.resolve_left (not_not_intro herr))
  · exact .inl ha
  · exact .inr (.inl ⟨ha, herr, fun hnone => hcause.trans (keepFirstCause_of_none hnone _)⟩)
  · exact .inr (.inr ⟨x, ha, hfull, herr, fun hnone => hcause.trans (keepFirstCause_of_none hnone _)⟩)

/-! The age of the recorded fall. -/

/-- END_BLOCK keeps the age of a fall it leaves recorded: both the offset and the index are re-based (R128). -/
theorem closeBlock_fallAge {s : State} (h : (closeBlock s).feValid = true) :
    fallAge (closeBlock s) = fallAge s := by
  obtain ⟨_, _, _, _, hfall, _⟩ | ⟨_, _, _, hfall, hoff⟩ := closeBlock_carry s
  · rw [hfall] at h
    cases h
  · rw [hfall] at h
    rw [fallAge, fallAge, hoff, if_pos h, closeBlock_blkIdx]
    push_cast
    omega

theorem closeBlock_loses_fall_iff {s : State} (h : s.feValid = true) :
    (closeBlock s).feValid = false ↔ (s.cfg.rate : Int) + 1 ≤ fallAge s := by
  rw [fallAge]
  obtain ⟨_, hold, _, _, hfall, _⟩ | ⟨hyoung, _, _, hfall, _⟩ := closeBlock_carry s
  · exact iff_of_true hfall (by omega)
  · have := hyoung h
    exact iff_of_false (by simp [hfall, h]) (by omega)

/-- The recorded edge an accepted sample leaves is a new one, or the one before, a sample older. -/
theorem acceptSample_fallAge {x : Int} {s : State} (h : (acceptSample x s).feValid = true) :
    (s.feValid = true ∧ fallAge (acceptSample x s) = fallAge s + 1) ∨
      (s.level = true ∧ x ≤ s.cfg.threshold ∧ fallAge (acceptSample x s) = 1) := by
  have hedge := acceptSample_fallingEdge x s
  rw [fallAge, fallAge, acceptSample_blkIdx]
  by_cases hfalling : s.level = true ∧ x ≤ s.cfg.threshold
  · rw [if_pos hfalling] at hedge
    obtain ⟨_, hoff⟩ := Prod.mk.inj hedge
    exact .inr ⟨hfalling.1, hfalling.2, by rw [hoff]; omega⟩
  · rw [if_neg hfalling] at hedge
    obtain ⟨hfall, hoff⟩ := Prod.mk.inj hedge
    exact .inl ⟨hfall.symm.trans h, by rw [hoff]; omega⟩

/-- Settles O44: the guard compares the age with `RATE`, END_BLOCK keeps it and a sample moves it on. -/
theorem guardMeasuresFallAge : Obligations.GuardMeasuresFallAge := by
  constructor
  · rintro s _ ⟨⟩ hfall
    exact ⟨closeBlock_loses_fall_iff hfall, closeBlock_fallAge⟩
  · intro s t x hroom hexec hfall
    rw [exec_sample, execSample_accept hroom] at hexec
    cases hexec
    exact acceptSample_fallAge hfall

/-! The order of events. -/

theorem eventsOrdered_singleton : EventsOrdered [.declare] := by
  refine ⟨rfl, fun before after heq => ?_⟩
  cases before <;> simp at heq

/-- An event keeps the order if it is no SYNC or follows a WRITE. -/
theorem eventsOrdered_append {es : List Event} {e : Event} (h : EventsOrdered es)
    (he : e = .sync → lastIsWrite es = true) : EventsOrdered (es ++ [e]) := by
  obtain ⟨hfirst, hsyncs⟩ := h
  refine ⟨by rw [List.head?_append, hfirst]; rfl, fun before after heq => ?_⟩
  rcases List.eq_nil_or_concat after with rfl | ⟨rest, last, rfl⟩
  · obtain ⟨hes, hlast⟩ := List.append_inj' heq rfl
    rw [← hes]
    exact he (List.singleton_inj.mp hlast)
  · rw [List.concat_eq_append, ← List.cons_append, ← List.append_assoc] at heq
    exact hsyncs before rest (List.append_inj' heq rfl).1

/-- Only END_BLOCK emits a SYNC, and only where it was requested (R127). -/
theorem syncReq_of_step_sync {s t : State} (hstep : step s = .next t) (hout : t.evtOut = some .sync) :
    s.syncReq = true := by
  obtain ⟨_, hport⟩ := atMostOneEventPerStep s t hstep
  cases ha : nextAction s with
  | idle | illegal | reset =>
    rw [ha] at hport
    cases hport.symm.trans hout
  | run i =>
    rw [ha] at hport
    cases i with
    | sample x =>
      obtain ⟨hnone | ⟨_, _, hwrite⟩, _⟩ := hport
      · cases hnone.symm.trans hout
      · cases hwrite.symm.trans hout
    | endBlock =>
      have hsync : (if s.syncReq = true then some Event.sync else none) = some .sync := hport.symm.trans hout
      cases hreq : s.syncReq with
      | true => rfl
      | false => simp [hreq] at hsync

/-- Settles O54: END_BLOCK alone emits a SYNC, where the invariant's item 6 has a WRITE as the last event. -/
theorem stepKeepsEventOrder : Obligations.StepKeepsEventOrder := by
  refine ⟨fun _ => eventsOrdered_singleton, fun s t h horder hstep => ?_⟩
  obtain ⟨hevents, _⟩ := atMostOneEventPerStep s t hstep
  rw [hevents]
  cases hout : t.evtOut with
  | none => simpa using horder
  | some e =>
    refine eventsOrdered_append horder fun hsync => ?_
    rw [hsync] at hout
    rw [← h.syncRequest]
    exact syncReq_of_step_sync hstep hout

end Sys2Proof.Machine
end

section
/-!
PROOFS. The value map (spec/42_frame_decoder.md R145 to R148): the gap's width, RoundNearest's answer and its ties, the
map in the exact modes and under binary64, its range on channel pulses, and the WRITEs a step emits (R149).
-/
namespace Sys2Proof.Machine

/-! The marker width. -/

/-- Settles O32: a gap's two readings are equivalent, and R9 bounds `ceil(RATE/200)`. -/
theorem markerWidthIsFiveMilliseconds : Obligations.MarkerWidthIsFiveMilliseconds := by
  intro c
  have hrate := rate_pos c
  refine ⟨fun w => (isGap_marker_iff c w).symm.trans (isGap_iff c w), ?_, markerWidth_le_rate c, fun hslow => ?_⟩
  · rw [markerWidth]
    omega
  · rw [markerWidth]
    omega

/-! RoundNearest. -/

/-- Away from zero: the answer to an exact half lies beyond the number. -/
theorem abs_lt_of_half_away {n d q : Int} (hd : 0 < d) (hhalf : 2 * (n - d * q) = d) :
    |n| < d * |if 0 ≤ q then q + 1 else q| := by
  split
  next hq =>
    have hprod : 0 ≤ d * q := Int.mul_nonneg hd.le hq
    have hsucc : d * (q + 1) = d * q + d := by ring
    rw [abs_of_nonneg (show 0 ≤ n by omega), abs_of_nonneg (by omega), hsucc]
    omega
  next hq =>
    have hprod : d * q ≤ d * (-1) := Int.mul_le_mul_of_nonneg_left (by omega) hd.le
    rw [abs_of_neg (show n < 0 by omega), abs_of_neg (by omega), mul_neg]
    omega

theorem even_choice (q : Int) : (if q % 2 = 0 then q else q + 1) % 2 = 0 := by
  split <;> omega

/-- Settles O33: an exact half is the third case of RoundNearest, where the mode chooses. -/
theorem roundNearestIsNearest : Obligations.RoundNearestIsNearest := by
  intro tie n d hd
  refine ⟨roundNearest_error tie n d hd, fun htie => ?_⟩
  have hsucc : d * (n / d + 1) = d * (n / d) + d := by ring
  obtain ⟨hlow, hnonneg, heq⟩ | ⟨hhigh, hlt, heq⟩ | ⟨hhalf, heq⟩ := roundNearest_cases tie n d hd
  · rw [heq, abs_of_nonneg hnonneg] at htie
    omega
  · rw [heq, abs_of_neg (by omega)] at htie
    omega
  · rw [heq]
    cases tie with
    | halfEven => exact even_choice (n / d)
    | halfAway => exact abs_lt_of_half_away hd hhalf
    | referenceB64 => exact even_choice (n / d)

/-- An integer nearer than a half is RoundNearest's answer, since two of them would be less than 1 apart. -/
theorem roundNearest_eq_of_near (tie : TieMode) {n d v : Int} (hd : 0 < d) (hv : 2 * |n - d * v| < d) :
    roundNearest tie n d = v := by
  have herr := roundNearest_error tie n d hd
  generalize roundNearest tie n d = u at herr
  have hclose : |d * (u - v)| < d * 1 := by
    have htriangle := abs_sub (n - d * v) (n - d * u)
    have hdiff : n - d * v - (n - d * u) = d * (u - v) := by ring
    rw [hdiff] at htriangle
    omega
  rw [abs_mul, abs_of_pos hd] at hclose
  have hsmall := Int.abs_lt_one_iff.mp (lt_of_mul_lt_mul_left hclose hd.le)
  omega

/-- Settles O34: the mode does not enter the argument for the unique nearest integer. -/
theorem tieModesAgreeAwayFromTies : Obligations.TieModesAgreeAwayFromTies :=
  fun a b _ _ _ hd hv => ⟨roundNearest_eq_of_near a hd hv, roundNearest_eq_of_near b hd hv⟩

/-- The distance of an integer from a quotient, by the remainder it leaves. -/
theorem abs_sub_quotient (n v : Int) {d : Int} (hd : 0 < d) :
    |(v : ℚ) - n / d| = (|n - d * v| : Int) / d := by
  have hdq : (0 : ℚ) < d := by exact_mod_cast hd
  have hdiff : (v : ℚ) - n / d = -((n - d * v) / d) := by field_simp; ring
  rw [hdiff, abs_neg, abs_div, abs_of_pos hdq]
  push_cast
  rfl

theorem roundNearest_quotient_error (tie : TieMode) (n : Int) {d : Int} (hd : 0 < d) :
    |((roundNearest tie n d : Int) : ℚ) - n / d| ≤ 1 / 2 := by
  have hdq : (0 : ℚ) < d := by exact_mod_cast hd
  have herr : (2 * |n - d * roundNearest tie n d| : ℤ) ≤ (d : ℚ) := by
    exact_mod_cast roundNearest_error tie n d hd
  rw [abs_sub_quotient n _ hd, div_le_iff₀ hdq]
  push_cast at herr ⊢
  linarith

/-! The map in the two exact modes. -/

/-- The source's formula over the rationals (R146). -/
def exactValue (c : Config) (w : Int) : ℚ := ((w : ℚ) / (c.rate : ℚ) - 7 / 10000) * 1000 * 255

theorem mapDenominator_pos (c : Config) : 0 < mapDenominator c := by
  have hrate := rate_pos c
  rw [mapDenominator]
  omega

theorem exactValue_eq (c : Config) (w : Int) :
    exactValue c w = (mapNumerator c w : ℚ) / (mapDenominator c : ℚ) := by
  have hrate : (0 : ℚ) < c.rate := by exact_mod_cast rate_pos c
  rw [exactValue, mapNumerator, mapDenominator]
  push_cast
  field_simp
  ring

theorem mapValue_of_exact {c : Config} (h : c.tieMode ≠ .referenceB64) (w : Int) :
    mapValue c w = roundNearest c.tieMode (mapNumerator c w) (mapDenominator c) := by
  unfold mapValue
  cases hmode : c.tieMode with
  | halfEven => rfl
  | halfAway => rfl
  | referenceB64 => exact absurd hmode h

theorem mapValue_error_of_exact {c : Config} (h : c.tieMode ≠ .referenceB64) (w : Int) :
    |((mapValue c w : Int) : ℚ) - exactValue c w| ≤ 1 / 2 := by
  rw [mapValue_of_exact h, exactValue_eq]
  exact roundNearest_quotient_error _ _ (mapDenominator_pos c)

/-- Settles O35: R146's integers are the formula's numerator and denominator, and RoundNearest settles their half. -/
theorem mapValueIsExactAndNearest : Obligations.MapValueIsExactAndNearest := by
  intro c w h
  refine ⟨mapValue_error_of_exact h w, fun hmode htie => ?_⟩
  change |((mapValue c w : Int) : ℚ) - exactValue c w| = 1 / 2 at htie
  have hd := mapDenominator_pos c
  have hdq : (0 : ℚ) < mapDenominator c := by exact_mod_cast hd
  rw [exactValue_eq, abs_sub_quotient _ _ hd, div_eq_iff hdq.ne'] at htie
  have hhalf : 2 * |mapNumerator c w - mapDenominator c * mapValue c w| = mapDenominator c := by
    have hcast : 2 * ((|mapNumerator c w - mapDenominator c * mapValue c w| : Int) : ℚ) = mapDenominator c := by
      rw [htie]
      ring
    exact_mod_cast hcast
  rw [mapValue_of_exact h, hmode] at hhalf ⊢
  exact (roundNearestIsNearest .halfEven _ _ hd).2 hhalf

/-! The map under binary64: each operation on values up to `B` adds at most `B / 2 ^ 52`. -/

/-- A relative rounding error as an absolute one, for values up to `B`. -/
theorem rounding_error_le {z B : ℚ} (hB : 1 ≤ B) (hz : |z| ≤ B) :
    |z| / 2 ^ 53 + 1 / 2 ^ 200 ≤ B / 2 ^ 52 := by
  have hsub : (1 : ℚ) / 2 ^ 200 ≤ B / 2 ^ 53 := by
    rw [div_le_div_iff₀ (by positivity) (by positivity)]
    nlinarith
  have hrel : |z| / 2 ^ 53 ≤ B / 2 ^ 53 := by gcongr
  have hsum : B / 2 ^ 53 + B / 2 ^ 53 = B / 2 ^ 52 := by ring
  linarith

theorem binary64Round_near {n : Int} {d : Nat} {B : ℚ} (hd : 0 < d) (hB : 1 ≤ B) (hz : |(n : ℚ) / d| ≤ B) :
    |binary64Value (binary64Round n d) - n / d| ≤ B / 2 ^ 52 :=
  (binary64Round_error n d hd).trans (rounding_error_le hB hz)

/-- The error of a product, from the errors of its factors. -/
theorem abs_mul_sub_mul_le {X Y x y a b A B : ℚ} (hX : |X - x| ≤ a) (hY : |Y - y| ≤ b) (hx : |x| ≤ A)
    (hB : |Y| ≤ B) : |X * Y - x * y| ≤ a * B + A * b := by
  have hsplit : X * Y - x * y = (X - x) * Y + x * (Y - y) := by ring
  have hfirst : |(X - x) * Y| ≤ a * B := by
    rw [abs_mul]
    exact mul_le_mul hX hB (abs_nonneg Y) ((abs_nonneg _).trans hX)
  have hsecond : |x * (Y - y)| ≤ A * b := by
    rw [abs_mul]
    exact mul_le_mul hx hY (abs_nonneg _) ((abs_nonneg x).trans hx)
  rw [hsplit]
  exact (abs_add_le _ _).trans (add_le_add hfirst hsecond)

/-- Two values whose difference is bounded have close magnitudes. -/
theorem abs_le_of_near {X x a A : ℚ} (hX : |X - x| ≤ a) (hx : |x| ≤ A) : |X| ≤ A + a := by
  have htriangle := abs_sub_abs_le_abs_sub X x
  linarith

/-- A binary64 product of values near `x` and `y`. -/
theorem binary64Mul_near {X Y : Binary64} {x y a b A B C : ℚ} (hX : |binary64Value X - x| ≤ a)
    (hY : |binary64Value Y - y| ≤ b) (hx : |x| ≤ A) (hy : |y| ≤ B) (hC : 1 ≤ C)
    (hprod : (A + a) * (B + b) ≤ C) :
    |binary64Value (binary64Mul X Y) - x * y| ≤ a * (B + b) + A * b + C / 2 ^ 52 := by
  have hYB := abs_le_of_near hY hy
  have hXA := abs_le_of_near hX hx
  have hsize : |binary64Value X * binary64Value Y| ≤ C := by
    rw [abs_mul]
    exact (mul_le_mul hXA hYB (abs_nonneg _) ((abs_nonneg _).trans hXA)).trans hprod
  have hround := (binary64Mul_error X Y).trans (rounding_error_le hC hsize)
  have hexact := abs_mul_sub_mul_le hX hY hx hYB
  have htriangle := abs_sub_le (binary64Value (binary64Mul X Y)) (binary64Value X * binary64Value Y) (x * y)
  linarith

/-- A binary64 difference of values near `x` and `y`. -/
theorem binary64Sub_near {X Y : Binary64} {x y a b C : ℚ} (hX : |binary64Value X - x| ≤ a)
    (hY : |binary64Value Y - y| ≤ b) (hC : 1 ≤ C) (hdiff : |x - y| + (a + b) ≤ C) :
    |binary64Value (binary64Sub X Y) - (x - y)| ≤ a + b + C / 2 ^ 52 := by
  have hexact : |binary64Value X - binary64Value Y - (x - y)| ≤ a + b := by
    rw [sub_sub_sub_comm]
    exact (abs_sub _ _).trans (add_le_add hX hY)
  have hsize := (abs_le_of_near hexact le_rfl).trans hdiff
  have hround := (binary64Sub_error X Y).trans (rounding_error_le hC hsize)
  have htriangle := abs_sub_le (binary64Value (binary64Sub X Y)) (binary64Value X - binary64Value Y) (x - y)
  linarith

theorem binary64ToInt_error (X : Binary64) : |((binary64ToInt X : Int) : ℚ) - binary64Value X| ≤ 1 / 2 := by
  have herr := roundNearest_quotient_error .halfEven X.num (d := ((2 ^ X.exp : Nat) : Int)) (by positivity)
  push_cast at herr
  exact herr

/-- A channel pulse is longer than nothing and shorter than 5 ms. -/
theorem pulse_duration {c : Config} {w : Int} (hpos : 1 ≤ w) (hshort : w < markerWidth c) :
    1 / 2 ^ 24 ≤ (w : ℚ) / c.rate ∧ (w : ℚ) / c.rate ≤ 1 / 200 - 1 / (200 * 2 ^ 24) := by
  have hrate : (0 : ℚ) < c.rate := by exact_mod_cast rate_pos c
  have hrateLe : (c.rate : ℚ) ≤ 2 ^ 24 := by exact_mod_cast rate_le c
  have hposq : (1 : ℚ) ≤ w := by exact_mod_cast hpos
  have hgap : (200 * w + 1 : ℚ) ≤ c.rate := by
    have := mt (isGap_marker_iff c w).mp (Int.not_le.mpr hshort)
    rw [isGap_iff] at this
    exact_mod_cast (by omega : 200 * w + 1 ≤ (c.rate : Int))
  constructor
  · rw [div_le_div_iff₀ (by positivity) hrate]
    nlinarith
  · rw [div_le_iff₀ hrate]
    nlinarith

/-- Under binary64 the map is a rounding of a value within `10^-5` of the exact one. -/
theorem mapValueB64_error {c : Config} {w : Int} (hpos : 1 ≤ w) (hshort : w < markerWidth c) :
    |((mapValueB64 c w : Int) : ℚ) - exactValue c w| ≤ 1 / 2 + 1 / 10 ^ 5 := by
  obtain ⟨hlow, hhigh⟩ := pulse_duration hpos hshort
  have hduration : |(w : ℚ) / c.rate| ≤ 1 := abs_le.mpr ⟨by linarith, by linarith⟩
  have hpulse : |(w : ℚ) / c.rate - 7 / 10000| ≤ 1 / 2 := abs_le.mpr ⟨by linarith, by linarith⟩
  have hscaled : |((w : ℚ) / c.rate - 7 / 10000) * 1000| ≤ 1000 := by
    rw [abs_mul, abs_of_pos (by norm_num : (0 : ℚ) < 1000)]
    linarith
  have hD := binary64Round_near (rate_pos c) le_rfl hduration
  have hO := binary64Round_near (n := 7) (d := 10000) (by norm_num) le_rfl (by norm_num [abs_of_pos])
  have hK : |binary64Value (binary64Round 1000 1) - 1000| ≤ 1000 / 2 ^ 52 := by
    simpa using binary64Round_near (n := 1000) (d := 1) one_pos (B := 1000) (by norm_num) (by norm_num)
  have hL : |binary64Value (binary64Round 255 1) - 255| ≤ 255 / 2 ^ 52 := by
    simpa using binary64Round_near (n := 255) (d := 1) one_pos (B := 255) (by norm_num) (by norm_num)
  have hS := binary64Sub_near hD hO le_rfl (by push_cast; linarith)
  have hM := binary64Mul_near hS hK hpulse (B := 1000) (C := 2000) (by norm_num) (by norm_num) (by norm_num)
  have hV := binary64Mul_near hM hL hscaled (B := 255) (C := 600000) (by norm_num) (by norm_num) (by norm_num)
  have hround := binary64ToInt_error (binary64Mul (binary64Mul (binary64Sub (binary64Round w c.rate)
    (binary64Round 7 10000)) (binary64Round 1000 1)) (binary64Round 255 1))
  refine (abs_sub_le _ _ _).trans ((add_le_add hround hV).trans ?_)
  norm_num

/-- In every tie mode the map is off the exact value by a half, and the binary64 error, at most. -/
theorem mapValue_error {c : Config} {w : Int} (hpos : 1 ≤ w) (hshort : w < markerWidth c) :
    |((mapValue c w : Int) : ℚ) - exactValue c w| ≤ 1 / 2 + 1 / 10 ^ 5 := by
  by_cases hmode : c.tieMode = .referenceB64
  · have hmap : mapValue c w = mapValueB64 c w := by rw [mapValue, hmode]
    rw [hmap]
    exact mapValueB64_error hpos hshort
  · have herr := mapValue_error_of_exact hmode w
    linarith

/-- R148: the exact value lies a little inside -178.5..1096.5, more than the binary64 error. -/
theorem mapValue_range {c : Config} {w : Int} (hpos : 1 ≤ w) (hshort : w < markerWidth c) :
    -178 ≤ mapValue c w ∧ mapValue c w ≤ 1096 := by
  obtain ⟨hlow, hhigh⟩ := pulse_duration hpos hshort
  obtain ⟨hbelow, habove⟩ := abs_le.mp (mapValue_error hpos hshort)
  rw [exactValue] at hbelow habove
  have hmin : (-179 : ℚ) < mapValue c w := by linarith
  have hmax : ((mapValue c w : Int) : ℚ) < 1097 := by linarith
  have hmin' : (-179 : Int) < mapValue c w := by exact_mod_cast hmin
  have hmax' : mapValue c w < 1097 := by exact_mod_cast hmax
  omega

/-- Settles O36: a value of that range fits 16 bits. -/
theorem mapValueRange : Obligations.MapValueRange := by
  intro c w hpos hshort
  obtain ⟨hlow, hhigh⟩ := mapValue_range hpos hshort
  exact ⟨hlow, hhigh, sext16_enc16 ⟨by omega, by omega⟩⟩

/-! The WRITEs of a step. -/

/-- A WRITE on the event port is the channel pulse that was due in the state before the step. -/
theorem pulseDue_of_step_write {s t : State} {axis : BitVec 4} {value : BitVec 16} (hstep : step s = .next t)
    (hout : t.evtOut = some (.write axis value)) :
    s.blkIdx ≠ s.cfg.blockMax ∧ s.feValid = true ∧ PulseDue s ∧
      channelEvent s.cfg s.ch (s.blkIdx - s.feOff) = .write axis value := by
  obtain ⟨_, rfl⟩ | ⟨_, rfl⟩ | ⟨_, rfl⟩ | ⟨x, _, _, rfl⟩ | ⟨x, _, hroom, rfl⟩ | ⟨_, rfl⟩ := step_cases hstep
  · cases hout
  · cases hout
  · cases hout
  · cases hout
  · obtain hsame | ⟨_, hgap⟩ | ⟨⟨_, _, hfall⟩, hpulse⟩ := acceptSample_frame x (beginCycle s)
    · cases hsame.evtOut.symm.trans hout
    · cases hgap.evtOut.symm.trans hout
    · exact ⟨hroom, hfall, ⟨hpulse.short, hpulse.synced, hpulse.ch⟩, Option.some.inj (hpulse.evtOut'.symm.trans hout)⟩
  · rw [(closeBlock_port (beginCycle_evtOut s)).2] at hout
    split at hout <;> cases hout

/-- The width of a pulse due under the invariant is a channel pulse's (R124, R132). -/
theorem pulse_width_pos {s : State} (h : Invariant s) (hroom : s.blkIdx ≠ s.cfg.blockMax) (hfall : s.feValid = true) :
    1 ≤ (s.blkIdx : Int) - s.feOff :=
  (forwardedWidthRange s h hfall hroom).1

/-- Settles O53: the pulse's width is in R148's range, and the value field reads back. -/
theorem writtenValuesInRange : Obligations.WrittenValuesInRange := by
  intro s t axis value h hstep hout
  obtain ⟨hroom, hfall, hdue, hevent⟩ := pulseDue_of_step_write hstep hout
  obtain ⟨hlow, hhigh, hfits⟩ := mapValueRange s.cfg _ (pulse_width_pos h hroom hfall) hdue.short
  rw [channelEvent_of_lt hdue.ch] at hevent
  obtain ⟨haxis, hvalue⟩ := Event.write.inj hevent
  refine ⟨?_, ?_, hlow, hhigh⟩
  · rw [List.getElem?_eq_getElem hdue.ch, haxis]
  · rw [valueOfWord, valueField_write, ← hvalue, hfits]

@[simp] theorem writesOf_append (es fs : List Event) : writesOf (es ++ fs) = writesOf es ++ writesOf fs :=
  List.filter_append ..

/-- Settles O37: at these rates every width of at least 1 is a gap, so no pulse is ever due. -/
theorem slowRatesNeverWrite : Obligations.SlowRatesNeverWrite := by
  intro s t h hslow hstep
  have hmarker : markerWidth s.cfg = 1 := (markerWidthIsFiveMilliseconds s.cfg).2.2.2 hslow
  obtain ⟨hevents, _⟩ := atMostOneEventPerStep s t hstep
  rw [hevents, writesOf_append]
  cases hout : t.evtOut with
  | none => exact List.append_nil _
  | some e =>
    cases e with
    | sync => exact List.append_nil _
    | declare => exact List.append_nil _
    | write axis value =>
      obtain ⟨hroom, hfall, hdue, _⟩ := pulseDue_of_step_write hstep hout
      have hpos := pulse_width_pos h hroom hfall
      have hshort := hdue.short
      omega

end Sys2Proof.Machine
end

section
/-!
PROOFS. The status registers (spec/10_state.md R33, R34, spec/60_exceptions.md R192).
-/
namespace Sys2Proof.Machine

/-! STATUS as a number. -/

theorem causeCode_injective {c d : ErrCause} (h : (causeCode c).toNat = (causeCode d).toNat) : c = d := by
  revert h
  cases c <;> cases d <;> decide

theorem statusWord_toNat {s : State} (hch : s.ch < 32) :
    (statusWord s).toNat =
      s.synced.toNat + 2 * s.feValid.toNat + 4 * s.level.toNat + 8 * s.syncReq.toNat + 16 * s.ch +
        65536 * s.err.toNat + 131072 * (causeCode s.errCause).toNat := by
  rw [statusWord]
  simp only [append_toNat, bit, BitVec.toNat_ofBool, BitVec.toNat_ofNat]
  omega

/-- The fields of STATUS, read out of its number. -/
theorem statusWord_fields {s : State} (hch : s.ch < 32) :
    s.synced.toNat = (statusWord s).toNat % 2 ∧ s.feValid.toNat = (statusWord s).toNat / 2 % 2 ∧
    s.level.toNat = (statusWord s).toNat / 4 % 2 ∧ s.syncReq.toNat = (statusWord s).toNat / 8 % 2 ∧
    s.ch = (statusWord s).toNat / 16 % 32 ∧ s.err.toNat = (statusWord s).toNat / 65536 % 2 ∧
    (causeCode s.errCause).toNat = (statusWord s).toNat / 131072 := by
  rw [statusWord_toNat hch]
  have hsynced := s.synced.toNat_le
  have hfall := s.feValid.toNat_le
  have hlevel := s.level.toNat_le
  have hreq := s.syncReq.toNat_le
  have herr := s.err.toNat_le
  omega

theorem bool_eq_of_toNat_eq {a b : Bool} (h : a.toNat = b.toNat) : a = b := by
  rw [← Bool.ofNat_toNat a, h, Bool.ofNat_toNat]

/-- STATUS determines the state elements it shows. -/
theorem statusWord_determines {s t : State} (hs : s.ch < 32) (ht : t.ch < 32) (h : statusWord s = statusWord t) :
    s.synced = t.synced ∧ s.feValid = t.feValid ∧ s.level = t.level ∧ s.syncReq = t.syncReq ∧ s.ch = t.ch ∧
      s.err = t.err ∧ s.errCause = t.errCause := by
  obtain ⟨hsynced, hfall, hlevel, hreq, hch, herr, hcause⟩ := statusWord_fields hs
  obtain ⟨hsynced', hfall', hlevel', hreq', hch', herr', hcause'⟩ := statusWord_fields ht
  rw [← h] at hsynced' hfall' hlevel' hreq' hch' herr' hcause'
  exact ⟨bool_eq_of_toNat_eq (hsynced.trans hsynced'.symm), bool_eq_of_toNat_eq (hfall.trans hfall'.symm),
    bool_eq_of_toNat_eq (hlevel.trans hlevel'.symm), bool_eq_of_toNat_eq (hreq.trans hreq'.symm),
    hch.trans hch'.symm, bool_eq_of_toNat_eq (herr.trans herr'.symm), causeCode_injective (hcause.trans hcause'.symm)⟩

theorem ch_lt_of_invariant {s : State} (h : Invariant s) : s.ch < 32 := by
  have hbound := h.channelBound
  have hnch := nch_le s.cfg
  omega

/-- Settles O45: the fields lie side by side, `CH` in five bits. -/
theorem statusWordFields : Obligations.StatusWordFields := by
  refine ⟨fun s h => ?_, rfl⟩
  change (statusWord s).toNat = _
  rw [statusWord_toNat (ch_lt_of_invariant h)]
  cases s.errCause <;> rfl

/-! The other registers. -/

/-- Entry `k` of a word of eight axes, the first in the low bits. -/
theorem axisMapWord_nibble (c : Config) (j : Nat) {k : Nat} (hk : k < 8) :
    (axisMapWord c j).toNat / 16 ^ k % 16 = (axisAt c (j + k)).toNat := by
  rw [axisMapWord]
  simp only [append_toNat]
  have hlt : ∀ i, (axisAt c i).toNat < 16 := fun i => (axisAt c i).isLt
  have h0 := hlt j
  have h1 := hlt (j + 1)
  have h2 := hlt (j + 2)
  have h3 := hlt (j + 3)
  have h4 := hlt (j + 4)
  have h5 := hlt (j + 5)
  have h6 := hlt (j + 6)
  have h7 := hlt (j + 7)
  interval_cases k
  · rw [Nat.pow_zero, Nat.div_one, Nat.add_zero j]
    omega
  all_goals omega

theorem statusRegister_reserved (s : State) {n : BitVec 4} (hn : 9 ≤ n.toNat) : statusRegister s n = 0 := by
  obtain ⟨m, hm⟩ : ∃ m, n.toNat = m + 9 := ⟨n.toNat - 9, by omega⟩
  rw [statusRegister, hm]
  rfl

theorem ofNat_toNat_of_le {n : Nat} (h : n ≤ 2 ^ 24) : (BitVec.ofNat 32 n).toNat = n := by
  rw [BitVec.toNat_ofNat]
  exact Nat.mod_eq_of_lt (by omega)

theorem ofInt_toInt_of_range {x : Int} (h : -(2 ^ 25 : Int) ≤ x ∧ x < 2 ^ 24) : (BitVec.ofInt 32 x).toInt = x := by
  obtain ⟨hlow, hhigh⟩ := h
  rw [BitVec.toInt_ofInt]
  exact Int.bmod_eq_of_le (by omega) (by omega)

/-- Settles O46: each number fits its register, by the invariant or by R9. -/
theorem statusRegisterContents : Obligations.StatusRegisterContents := by
  intro s h
  obtain ⟨_, hofflow, hoffhigh, hidx, _⟩ := registersFitTheirWidths s h
  have hrate := rate_le s.cfg
  have hmarker := (markerWidth_le_rate s.cfg).trans hrate
  have hnch := (nch_le s.cfg).trans (by norm_num : 16 ≤ 2 ^ 24)
  obtain ⟨hthlow, hthhigh⟩ := s.cfg.valid.2.1
  exact ⟨ofInt_toInt_of_range ⟨hofflow, hoffhigh⟩, ofNat_toNat_of_le hidx, ofNat_toNat_of_le hrate,
    ofInt_toInt_of_range ⟨by omega, by omega⟩, ofNat_toNat_of_le hmarker, ofNat_toNat_of_le hnch,
    fun k hk => ⟨(axisMapWord_nibble s.cfg 0 hk).trans (by rw [Nat.zero_add]; rfl), axisMapWord_nibble s.cfg 8 hk⟩,
    fun n => statusRegister_reserved s⟩

/-- Settles O47: the reset state meets the invariant, so its rate is read back; the other values are evaluated. -/
theorem statusRegistersAfterReset : Obligations.StatusRegistersAfterReset := by
  obtain ⟨_, _, hrate, _, hmarker, _⟩ := statusRegisterContents State.reset invariantAfterReset.2
  exact ⟨rfl, rfl, rfl, hrate, rfl, hmarker, rfl, rfl, rfl⟩

/-- Settles O48: registers 1 and 2 hold the offset and the index, and STATUS determines its fields. -/
theorem statusPortExposesState : Obligations.StatusPortExposesState := by
  intro s t hs ht hstatus hoff hidx
  obtain ⟨hsynced, hfall, hlevel, hreq, hch, herr, hcause⟩ :=
    statusWord_determines (ch_lt_of_invariant hs) (ch_lt_of_invariant ht) hstatus
  obtain ⟨hoffS, hidxS, _⟩ := statusRegisterContents s hs
  obtain ⟨hoffT, hidxT, _⟩ := statusRegisterContents t ht
  rw [hoff] at hoffS
  rw [hidx] at hidxS
  exact ⟨hlevel, hfall, hoffS.symm.trans hoffT, hsynced, hch, hidxS.symm.trans hidxT, hreq, herr, hcause⟩

end Sys2Proof.Machine
end

section
/-!
PROOFS. Runs: a low block (spec/40_edge_detector.md R105), the synthetic frame (spec/95_test_vectors.md S2) and the
carry across cuts (spec/41_pulse_timer.md R131).
-/
namespace Sys2Proof.Machine

/-! Command lists. -/

theorem execAll_cons {i : Instr} {s t : State} (h : exec i s = .next t) (is : List Instr) :
    execAll (i :: is) s = execAll is t := by rw [execAll, h]

theorem execAll_append {is : List Instr} {s t : State} (h : execAll is s = .next t) (js : List Instr) :
    execAll (is ++ js) s = execAll js t := by
  induction is generalizing s with
  | nil =>
    cases h
    rfl
  | cons i is ih =>
    obtain ⟨u, hu, _⟩ := exec_completes i s
    rw [execAll_cons hu] at h
    rw [List.cons_append, execAll_cons hu, ih h]

/-- Running samples and then END_BLOCK closes the block the samples leave. -/
theorem execAll_feedCommands {vs : List Int} {s t : State} (h : execAll (vs.map Instr.sample) s = .next t) :
    execAll (feedCommands vs) s = .next (closeBlock t) := by
  rw [feedCommands, execAll_append h]
  rfl

/-! A low block. -/

theorem SameFrame.trans {s t u : State} (h : SameFrame s t) (h' : SameFrame t u) : SameFrame s u where
  synced := h'.synced.trans h.synced
  ch := h'.ch.trans h.ch
  syncReq := h'.syncReq.trans h.syncReq
  evtOut := h'.evtOut.trans h.evtOut
  events := h'.events.trans h.events

/-- A sample at or below `THRESHOLD` is no rising edge, accepted or not (R105). -/
theorem exec_lowSample {v : Int} {s : State} (hv : v ≤ s.cfg.threshold) :
    ∃ t, exec (.sample v) s = .next t ∧ SameFrame s t ∧ t.cfg = s.cfg := by
  by_cases hfull : s.blkIdx = s.cfg.blockMax
  · exact ⟨_, execSample_overflow hfull v, ⟨rfl, rfl, rfl, rfl, rfl⟩, rfl⟩
  · exact ⟨_, execSample_accept hfull v, acceptSample_sameFrame fun ⟨_, hhigh, _⟩ => Int.not_le.mpr hhigh hv,
      acceptSample_cfg v s⟩

theorem execAll_lowSamples {vs : List Int} {s : State} (hvs : ∀ v ∈ vs, v ≤ s.cfg.threshold) :
    ∃ t, execAll (vs.map Instr.sample) s = .next t ∧ SameFrame s t := by
  induction vs generalizing s with
  | nil => exact ⟨s, rfl, rfl, rfl, rfl, rfl, rfl⟩
  | cons v vs ih =>
    obtain ⟨hv, hrest⟩ := List.forall_mem_cons.mp hvs
    obtain ⟨u, hu, hsame, hcfg⟩ := exec_lowSample hv
    obtain ⟨t, ht, hsame'⟩ := ih (s := u) (by rwa [hcfg])
    exact ⟨t, (execAll_cons hu _).trans ht, hsame.trans hsame'⟩

/-- END_BLOCK emits no WRITE. -/
theorem closeBlock_writes (s : State) : writesOf (closeBlock s).events = writesOf s.events := by
  rw [closeBlock_events]
  split
  · rw [writesOf_append]
    exact List.append_nil _
  · rfl

/-- Settles O57: the samples keep the frame, and END_BLOCK adds a requested SYNC or a loss of sync. -/
theorem lowBlockIsSilent : Obligations.LowBlockIsSilent := by
  intro vs s hvs
  obtain ⟨t, ht, hsame⟩ := execAll_lowSamples hvs
  refine ⟨closeBlock t, execAll_feedCommands ht, ?_, fun hreq => ?_, ?_⟩
  · rw [closeBlock_writes, hsame.events]
  · rw [closeBlock_events, hsame.syncReq, hreq, hsame.events]
    rfl
  · obtain ⟨_, _, hsynced, hch, _⟩ | ⟨_, hsynced, hch, _⟩ := closeBlock_carry t
    · exact .inr ⟨hsynced, hch⟩
    · exact .inl ⟨hsynced.trans hsame.synced, hch.trans hsame.ch⟩

/-! The synthetic frame. -/

/-- The state `s`, at a high line, after a channel pulse of width `w` (R121, R143). -/
def pulseWritten (w : Nat) (s : State) : State :=
  emit (channelEvent s.cfg s.ch w) { s with
    level := true, feValid := true, feOff := s.blkIdx, ch := s.ch + 1, blkIdx := s.blkIdx + w + 1, syncReq := true }

theorem pulseWritten_fallAge (w : Nat) (s : State) : fallAge (pulseWritten w s) = w + 1 := by
  change ((s.blkIdx + w + 1 : Nat) : Int) - s.blkIdx = w + 1
  omega

section
variable {s : State} {low high : Int}

/-- Low samples on a low line only move the index. -/
theorem execAll_lows (hlow : low ≤ s.cfg.threshold) (hline : s.level = false) {n : Nat}
    (hroom : s.blkIdx + n ≤ s.cfg.blockMax) :
    execAll ((List.replicate n low).map Instr.sample) s = .next { s with blkIdx := s.blkIdx + n } := by
  induction n generalizing s with
  | zero => rfl
  | succ n ih =>
    have hequal : s.level = sampleLevel s.cfg low := hline.trans (sampleLevel_low hlow).symm
    have hfirst : exec (.sample low) s = .next { s with blkIdx := s.blkIdx + 1 } := by
      rw [exec_sample, execSample_accept (by omega), acceptSample_of_equal hequal]
    have hrest := ih (s := { s with blkIdx := s.blkIdx + 1 }) hlow hline (by dsimp only; omega)
    rw [List.replicate_succ, List.map_cons, execAll_cons hfirst, hrest, Nat.add_assoc, Nat.add_comm 1 n]

/-- A low interval of `w` samples and the high one after it measure the width `w` (R122, C5). -/
theorem execAll_pulseSamples (hlow : low ≤ s.cfg.threshold) (hhigh : s.cfg.threshold < high) (hline : s.level = true)
    {w : Nat} (hw : 1 ≤ w) (hroom : s.blkIdx + (w + 1) ≤ s.cfg.blockMax) :
    execAll ((pulseSamples low high w).map Instr.sample) s =
      .next (advanceIndex (frameStep w
        { s with level := true, feValid := true, feOff := s.blkIdx, blkIdx := s.blkIdx + w })) := by
  obtain ⟨n, rfl⟩ : ∃ n, w = n + 1 := ⟨w - 1, by omega⟩
  have hfall := sampleFallingEdgeCaptures s low (by omega) hline hlow
  have hlows := execAll_lows (low := low) (n := n)
    (s := { s with level := false, feValid := true, feOff := s.blkIdx, blkIdx := s.blkIdx + 1 }) hlow rfl
    (by dsimp only; omega)
  have hrise := exec_sample_of_measured
    (s := { s with level := false, feValid := true, feOff := s.blkIdx, blkIdx := s.blkIdx + 1 + n }) (x := high)
    (by dsimp only; omega) rfl hhigh rfl
  have hwidth : ((s.blkIdx + 1 + n : Nat) : Int) - s.blkIdx = (n + 1 : Nat) := by omega
  rw [pulseSamples, List.replicate_succ, List.cons_append, List.map_cons, execAll_cons hfall, List.map_append,
    execAll_append hlows, List.map_singleton, execAll_cons hrise]
  dsimp only
  rw [hwidth, Nat.add_assoc, Nat.add_comm 1 n]
  rfl

theorem pulseSamples_length (w : Nat) : (pulseSamples low high w).length = w + 1 := by simp [pulseSamples]

/-- A gap gives Synced(0) without an event (R142). -/
theorem execAll_gap (hlow : low ≤ s.cfg.threshold) (hhigh : s.cfg.threshold < high) (hline : s.level = true) {g : Nat}
    (hgap : markerWidth s.cfg ≤ g) (hroom : s.blkIdx + (g + 1) ≤ s.cfg.blockMax) :
    execAll ((pulseSamples low high g).map Instr.sample) s =
      .next { s with
        level := true, feValid := true, feOff := s.blkIdx, synced := true, ch := 0, blkIdx := s.blkIdx + g + 1 } := by
  have hmarker := (markerWidthIsFiveMilliseconds s.cfg).2.1
  rw [execAll_pulseSamples hlow hhigh hline (hmarker.trans hgap) hroom, frameStep_of_gap (by exact_mod_cast hgap)]
  rfl

/-- A shorter width on a channel inside the mapping writes the channel's event (R143). -/
theorem execAll_pulse (hlow : low ≤ s.cfg.threshold) (hhigh : s.cfg.threshold < high) (hline : s.level = true)
    (hsync : s.synced = true) (hch : s.ch < nch s.cfg) {w : Nat} (hw : 1 ≤ w ∧ w < markerWidth s.cfg)
    (hroom : s.blkIdx + (w + 1) ≤ s.cfg.blockMax) :
    execAll ((pulseSamples low high w).map Instr.sample) s =
      .next (pulseWritten w s) := by
  have hframe := frameStep_of_pulse (w := w)
    (s := { s with level := true, feValid := true, feOff := s.blkIdx, blkIdx := s.blkIdx + w })
    (by exact_mod_cast hw.2) hsync hch
  rw [execAll_pulseSamples hlow hhigh hline hw.1 hroom, hframe]
  rfl

end

/-- The state `t` after the pulses of widths `ws` from the state `s`. -/
structure AfterPulses (s : State) (ws : List Nat) (t : State) : Prop where
  level : t.level = true
  synced : t.synced = true
  ch : t.ch = s.ch + ws.length
  err : t.err = s.err
  cfg : t.cfg = s.cfg
  syncReq : t.syncReq = (s.syncReq || !ws.isEmpty)
  events : t.events = s.events ++ frameWrites s.cfg s.ch ws
  /-- the fall of the last pulse is younger than the guard's window -/
  young : (ws = [] → fallAge s ≤ s.cfg.rate) → fallAge t ≤ s.cfg.rate

theorem execAll_pulses {s : State} {low high : Int} {ws : List Nat} (hlow : low ≤ s.cfg.threshold)
    (hhigh : s.cfg.threshold < high) (hline : s.level = true) (hsync : s.synced = true)
    (hch : s.ch + ws.length ≤ nch s.cfg) (hws : ∀ w ∈ ws, 1 ≤ w ∧ w < markerWidth s.cfg)
    (hroom : s.blkIdx + (ws.flatMap (pulseSamples low high)).length ≤ s.cfg.blockMax) :
    ∃ t, execAll ((ws.flatMap (pulseSamples low high)).map Instr.sample) s = .next t ∧ AfterPulses s ws t := by
  induction ws generalizing s with
  | nil =>
    exact ⟨s, rfl,
      { level := hline, synced := hsync, ch := rfl, err := rfl, cfg := rfl, syncReq := (Bool.or_false _).symm
        events := (List.append_nil _).symm, young := fun hyoung => hyoung rfl }⟩
  | cons w ws ih =>
    obtain ⟨hw, hrest⟩ := List.forall_mem_cons.mp hws
    rw [List.length_cons] at hch
    rw [List.flatMap_cons, List.length_append, pulseSamples_length] at hroom
    have hpulse := execAll_pulse hlow hhigh hline hsync (by omega) hw (by omega)
    have hch' : (pulseWritten w s).ch + ws.length ≤ nch s.cfg := by
      change s.ch + 1 + ws.length ≤ nch s.cfg
      omega
    have hroom' : (pulseWritten w s).blkIdx + (ws.flatMap (pulseSamples low high)).length ≤ s.cfg.blockMax := by
      change s.blkIdx + w + 1 + _ ≤ s.cfg.blockMax
      omega
    have hage : fallAge (pulseWritten w s) ≤ s.cfg.rate := by
      have hmarker := markerWidth_le_rate s.cfg
      rw [pulseWritten_fallAge]
      omega
    obtain ⟨t, ht, hafter⟩ := ih (s := pulseWritten w s) hlow hhigh rfl hsync hch' hrest hroom'
    refine ⟨t, ?_,
      { level := hafter.level, synced := hafter.synced, err := hafter.err, cfg := hafter.cfg
        ch := ?_, syncReq := ?_, events := ?_, young := fun _ => hafter.young fun _ => hage }⟩
    · rw [List.flatMap_cons, List.map_append, execAll_append hpulse, ht]
    · rw [hafter.ch, List.length_cons, Nat.add_comm ws.length, ← Nat.add_assoc]
      rfl
    · rw [hafter.syncReq]
      exact (Bool.or_true _).symm
    · rw [hafter.events, frameWrites]
      exact (List.append_cons s.events _ _).symm

theorem frameSamples_inRange {low high : Int} (hlow : sampleInRange low) (hhigh : sampleInRange high) (g : Nat)
    (ws : List Nat) : ∀ v ∈ frameSamples low high g ws, sampleInRange v := by
  have hpulse : ∀ w, ∀ v ∈ pulseSamples low high w, sampleInRange v := by
    intro w v hv
    rw [pulseSamples, List.mem_append, List.mem_singleton] at hv
    obtain hv | rfl := hv
    · rwa [List.eq_of_mem_replicate hv]
    · exact hhigh
  intro v hv
  rw [frameSamples, List.mem_append, List.mem_flatMap] at hv
  obtain hv | ⟨w, _, hv⟩ := hv
  · exact hpulse g v hv
  · exact hpulse w v hv

/-- Settles O58: the gap, then the pulses, then END_BLOCK, whose guard a last pulse keeps silent. -/
theorem syntheticFrameDecodes : Obligations.SyntheticFrameDecodes := by
  intro s low high g ws hline hreq hlowRange hhighRange hlow hhigh hgap hws hch hroom
  rw [frameSamples, List.length_append, pulseSamples_length] at hroom
  have hstart := execAll_gap hlow hhigh hline hgap (by omega)
  obtain ⟨t, ht, hafter⟩ := execAll_pulses (s := { s with
      level := true, feValid := true, feOff := s.blkIdx, synced := true, ch := 0, blkIdx := s.blkIdx + g + 1 })
    (low := low) (high := high) (ws := ws) hlow hhigh rfl rfl (by rwa [Nat.zero_add]) hws (by dsimp only; omega)
  have hsamples : execAll ((frameSamples low high g ws).map Instr.sample) s = .next t := by
    rw [frameSamples, List.map_append, execAll_append hstart, ht]
  obtain ⟨u, v, hu, hv, huv⟩ :=
    runWords_encode (feedCommands_wellFormed (frameSamples_inRange hlowRange hhighRange g ws)) s s.evtOut
  rw [execAll_feedCommands hsamples] at hv
  obtain rfl := Host.Outcome.next.inj hv
  refine ⟨u, by rwa [expandLine_feed], ?_⟩
  rw [huv.eq_of_nil]
  refine ⟨?_, ?_, ?_, closeBlock_blkIdx t, fun hpulses => ?_⟩
  · change (closeBlock t).events = _
    rw [closeBlock_events, hafter.syncReq, hafter.events]
    cases ws <;> simp [hreq]
  · exact (closeBlock_err t).trans hafter.err
  · exact (closeBlock_level t).trans hafter.level
  · have hyoung := hafter.young fun hnone => absurd hnone hpulses
    obtain ⟨_, hold, _⟩ | ⟨_, hsynced, hch', _⟩ := closeBlock_carry t
    · rw [hafter.cfg] at hold
      rw [fallAge] at hyoung
      dsimp only at hold hyoung
      omega
    · exact ⟨hsynced.trans hafter.synced, hch'.trans (hafter.ch.trans (Nat.zero_add _))⟩

/-! Cuts. -/

theorem CutEquivalent.refl (s : State) : CutEquivalent s s := ⟨rfl, rfl, fun _ => rfl, rfl, rfl, rfl, rfl⟩

theorem CutEquivalent.symm {s t : State} (h : CutEquivalent s t) : CutEquivalent t s where
  level := h.level.symm
  feValid := h.feValid.symm
  age hfall := (h.age (h.feValid.trans hfall)).symm
  synced := h.synced.symm
  ch := h.ch.symm
  cfg := h.cfg.symm
  writes := h.writes.symm

theorem CutEquivalent.trans {s t u : State} (h : CutEquivalent s t) (h' : CutEquivalent t u) : CutEquivalent s u where
  level := h.level.trans h'.level
  feValid := h.feValid.trans h'.feValid
  age hfall := (h.age hfall).trans (h'.age (h.feValid.symm.trans hfall))
  synced := h.synced.trans h'.synced
  ch := h.ch.trans h'.ch
  cfg := h.cfg.trans h'.cfg
  writes := h.writes.trans h'.writes

section
variable {s t : State}

/-! A sample keeps the equivalence, operation by operation: none reads the index but through the age. -/

theorem setLevel_cut (h : CutEquivalent s t) (level : Bool) :
    CutEquivalent { s with level := level } { t with level := level } := { h with level := rfl }

theorem captureFall_cut (h : CutEquivalent s t) : CutEquivalent (captureFall s) (captureFall t) :=
  { h with
    feValid := rfl
    age := fun _ => by simp [fallAge] }

theorem emit_cut (h : CutEquivalent s t) (e : Event) : CutEquivalent (emit e s) (emit e t) :=
  { h with writes := by simp [h.writes] }

theorem frameStep_cut (h : CutEquivalent s t) (w : Int) : CutEquivalent (frameStep w s) (frameStep w t) := by
  have hmarker : markerWidth t.cfg = markerWidth s.cfg := by rw [h.cfg]
  have hdue : (s.synced = true ∧ s.ch < nch s.cfg) = (t.synced = true ∧ t.ch < nch t.cfg) := by
    rw [h.synced, h.ch, h.cfg]
  have hevent : channelEvent t.cfg t.ch w = channelEvent s.cfg s.ch w := by rw [h.cfg, h.ch]
  by_cases hgap : (markerWidth s.cfg : Int) ≤ w
  · rw [frameStep_of_gap hgap, frameStep_of_gap (by rwa [hmarker])]
    exact { h with synced := rfl, ch := rfl }
  · have hshort := Int.not_le.mp hgap
    rw [frameStep_of_short hshort, frameStep_of_short (by rwa [hmarker])]
    by_cases hpulse : s.synced = true ∧ s.ch < nch s.cfg
    · rw [if_pos hpulse, if_pos (hdue ▸ hpulse), hevent]
      have hnext : CutEquivalent { s with ch := s.ch + 1, syncReq := true }
          { t with ch := t.ch + 1, syncReq := true } := { h with ch := congrArg (· + 1) h.ch }
      exact emit_cut hnext _
    · rw [if_neg hpulse, if_neg (hdue ▸ hpulse)]
      exact h

theorem measureRise_cut (h : CutEquivalent s t) : CutEquivalent (measureRise s) (measureRise t) := by
  cases hfall : s.feValid with
  | false =>
    rw [measureRise_of_no_fall s hfall, measureRise_of_no_fall t (h.feValid.symm.trans hfall)]
    exact h
  | true =>
    have hage : (s.blkIdx : Int) - s.feOff = t.blkIdx - t.feOff := h.age hfall
    rw [measureRise_of_fall hfall, measureRise_of_fall (h.feValid.symm.trans hfall), hage]
    exact frameStep_cut h _

theorem onEdge_cut (h : CutEquivalent s t) (edge : Edge) : CutEquivalent (onEdge edge s) (onEdge edge t) := by
  cases edge with
  | noEdge => exact h
  | rising => exact measureRise_cut h
  | falling => exact captureFall_cut h

theorem advanceIndex_cut (h : CutEquivalent s t) : CutEquivalent (advanceIndex s) (advanceIndex t) :=
  { h with
    age := fun hfall => by
      have hage := h.age hfall
      simp only [fallAge, advanceIndex_blkIdx, advanceIndex_feOff] at hage ⊢
      omega }

theorem acceptSample_cut (h : CutEquivalent s t) (x : Int) : CutEquivalent (acceptSample x s) (acceptSample x t) := by
  have hcur : sampleLevel t.cfg x = sampleLevel s.cfg x := by rw [h.cfg]
  rw [acceptSample, acceptSample, hcur, h.level]
  exact advanceIndex_cut (onEdge_cut (setLevel_cut h _) _)

/-- Where the guard is silent, a cut changes nothing the equivalence sees (R128). -/
theorem closeBlock_cut (hquiet : s.feValid = true → -(s.cfg.rate : Int) ≤ s.feOff - s.blkIdx) :
    CutEquivalent (closeBlock s) s := by
  obtain ⟨hfall, hold, _⟩ | ⟨_, hsynced, hch, hfall, _⟩ := closeBlock_carry s
  · exact absurd hold (Int.not_lt.mpr (hquiet hfall))
  · exact
      { level := closeBlock_level s, feValid := hfall, age := closeBlock_fallAge, synced := hsynced, ch := hch
        cfg := closeBlock_cfg s, writes := closeBlock_writes s }

end

/-- The samples of a stream, accepted one after the other without a cut. -/
def acceptAll (xs : List Int) (s : State) : State := xs.foldl (fun t x => acceptSample x t) s

/-- A quiet command list ends, up to cuts, where its samples alone lead. -/
theorem execAll_cut {cs : List Instr} {s s' : State} (hquiet : Quiet cs s) (h : CutEquivalent s s') :
    ∃ t, execAll cs s = .next t ∧ CutEquivalent t (acceptAll (samplesOf cs) s') := by
  induction cs generalizing s s' with
  | nil => exact ⟨s, rfl, h⟩
  | cons c cs ih =>
    cases c with
    | sample x =>
      obtain ⟨hroom, hrest⟩ := hquiet
      have hexec : exec (.sample x) s = .next (acceptSample x s) := execSample_accept hroom x
      obtain ⟨t, ht, hcut⟩ := ih (hrest _ hexec) (acceptSample_cut h x)
      exact ⟨t, (execAll_cons hexec cs).trans ht, hcut⟩
    | endBlock =>
      obtain ⟨hsilent, hrest⟩ := hquiet
      obtain ⟨t, ht, hcut⟩ := ih (hrest _ (exec_endBlock s)) ((closeBlock_cut hsilent).trans h)
      exact ⟨t, (execAll_cons (exec_endBlock s) cs).trans ht, hcut⟩

/-- Settles O59: both streams end where their common samples lead without cuts. -/
theorem widthsDoNotDependOnCuts : Obligations.WidthsDoNotDependOnCuts := by
  intro cs ds s hsamples hcs hds
  obtain ⟨t, ht, hcut⟩ := execAll_cut hcs (CutEquivalent.refl s)
  obtain ⟨u, hu, hcut'⟩ := execAll_cut hds (CutEquivalent.refl s)
  rw [← hsamples] at hcut'
  exact ⟨t, u, ht, hu, hcut.trans hcut'.symm⟩

end Sys2Proof.Machine
end
